-- ==== Sys2Proof/Word.lean ====
section
/-! DEFINITION. The fixed-width formats of CORE (30_encoding.md R60): every one is an unsigned bit vector (00_scope.md R6). -/

namespace Sys2Proof

/-- Format DEC (R61): a counter or the part of a sample not yet shown, 14 bits (CW = 14, R5). -/
abbrev Dec := BitVec 14

/-- Format SEG (R62): which segments are lit; bit 0 is segment A, bit 6 is segment G. -/
abbrev Seg := BitVec 7

/-- Format SEL (R64): which digit position is selected; bit p is position p. -/
abbrev Sel := BitVec 12

/-- Format POSX (R66): a position index, block in bits 3:2 and digit in bits 1:0. -/
abbrev Posx := BitVec 4

/-- The digit code that indexes the Segment Encoding Table (R63). -/
abbrev DigCode := BitVec 4

/-- Format PH (R67): the code of the phase register. -/
abbrev PhCode := BitVec 3

/-- Format EVT (R68): the pair of input pins, rst_i in bit 1 and tick_i in bit 0. -/
abbrev Evt := BitVec 2

/-- A block index or a digit index, 2 bits each (R21, R22). -/
abbrev Idx := BitVec 2

/-- One byte, the unit in which a decoder is given a code. -/
abbrev Byte := BitVec 8

end Sys2Proof
end

