-- ==== Sys2Proof/Syntax.lean ====
section
/-! DEFINITION. The operations of CORE: one constructor of `Instr` for each row of spec/opcode_table.json. A field holds the
bits of the row's code that the row does not fix. -/

namespace Sys2Proof

/-- The four code spaces of the operation map (30_encoding.md R71). They overlap: the same bits mean different things in
different spaces, and which space a code is read in is told by where it stands (input pins, phase register, position index,
digit code). -/
inductive Space where
  /-- Format EVT: the input pins {rst_i, tick_i} (R68). -/
  | evt
  /-- Format PH: the phase register (R67). -/
  | ph
  /-- Format POSX: the position index inside SELECT (R66, R100). -/
  | posx
  /-- The digit code inside DRIVE (R63). -/
  | dig
  deriving DecidableEq, Repr

/-- The width of a space's codes in bits (R60, R72). -/
def Space.width : Space → Nat
  | .evt => 2
  | .ph => 3
  | .posx => 4
  | .dig => 4

/-- The operations of CORE, in the order of the table. -/
inductive Instr where
  /-- RESET, code 1t; `t` is tick_i, ignored (R160). -/
  | reset (t : BitVec 1)
  /-- TICK, code 01 (R90). -/
  | tick
  /-- NOTICK, code 00 (R93). -/
  | notick
  /-- FETCH, phase 0 (R110). -/
  | fetch
  /-- BLANK, phase 1 (R111). -/
  | blank
  /-- SELECT, phase 2 (R112). -/
  | select
  /-- DRIVE, phase 3 (R113). -/
  | drive
  /-- HOLD, phase 4 (R114). -/
  | hold
  /-- AUX, phase 5 (R115). -/
  | aux
  /-- RECOVER, phases 6 and 7; `x` is ph[0], ignored (R116). -/
  | recover (x : BitVec 1)
  /-- SELDEC.B0, position `j` of block 0 (R100). -/
  | seldecB0 (j : Idx)
  /-- SELDEC.B1, position `j` of block 1 (R100). -/
  | seldecB1 (j : Idx)
  /-- SELDEC.B2, position `j` of block 2 (R100). -/
  | seldecB2 (j : Idx)
  /-- SELDEC.RSVD, position index 12 to 15; `j` is ignored (R100). -/
  | seldecRsvd (j : Idx)
  /-- SEG0 to SEG9, the table entry of a decimal digit (R63). -/
  | seg0
  | seg1
  | seg2
  | seg3
  | seg4
  | seg5
  | seg6
  | seg7
  | seg8
  | seg9
  /-- SEG.RSVD_A, digit codes 10 and 11; `x` is ignored (R63). -/
  | segRsvdA (x : BitVec 1)
  /-- SEG.RSVD_B, digit codes 12 to 15; `x` is ignored (R63). -/
  | segRsvdB (x : BitVec 2)
  deriving DecidableEq, Repr

/-- The code space of an operation's row. -/
def spaceOf : Instr → Space
  | .reset _ => .evt
  | .tick => .evt
  | .notick => .evt
  | .fetch => .ph
  | .blank => .ph
  | .select => .ph
  | .drive => .ph
  | .hold => .ph
  | .aux => .ph
  | .recover _ => .ph
  | .seldecB0 _ => .posx
  | .seldecB1 _ => .posx
  | .seldecB2 _ => .posx
  | .seldecRsvd _ => .posx
  | .seg0 => .dig
  | .seg1 => .dig
  | .seg2 => .dig
  | .seg3 => .dig
  | .seg4 => .dig
  | .seg5 => .dig
  | .seg6 => .dig
  | .seg7 => .dig
  | .seg8 => .dig
  | .seg9 => .dig
  | .segRsvdA _ => .dig
  | .segRsvdB _ => .dig

end Sys2Proof
end

