-- ==== Sys2Proof/Decode.lean ====
section
/-! DEFINITION. The decoder of CORE (30_encoding.md R71) space by space, the decoder of a byte that rejects by name, and the
encoder. Every code of a space's width is an operation: the reserved ones have rows of their own (R75). -/

namespace Sys2Proof

/-- Why a byte is no code. -/
inductive DecodeError where
  /-- The byte has a bit set above the width of the space it is read in (R60: every code has its fixed width). Raised by
  `decode` alone; safe, since no register or pin of CORE can hold such a code. -/
  | aboveFormat (sp : Space) (w : Byte)
  deriving DecidableEq, Repr

/-- Format EVT (R68): the operation that the pins {rst_i, tick_i} select. -/
def decodeEvt (e : Evt) : Instr :=
  if e.getLsbD 1 then .reset (e.extractLsb' 0 1)
  else if e.getLsbD 0 then .tick
  else .notick

/-- Format PH (R67): the micro-operation that the phase register names. -/
def decodePh (p : PhCode) : Instr :=
  if p = 0 then .fetch
  else if p = 1 then .blank
  else if p = 2 then .select
  else if p = 3 then .drive
  else if p = 4 then .hold
  else if p = 5 then .aux
  else .recover (p.extractLsb' 0 1)

/-- Format POSX (R66): the row of SelDecode (R100) that a position index names. -/
def decodePosx (p : Posx) : Instr :=
  if p.extractLsb' 2 2 = 0 then .seldecB0 (p.extractLsb' 0 2)
  else if p.extractLsb' 2 2 = 1 then .seldecB1 (p.extractLsb' 0 2)
  else if p.extractLsb' 2 2 = 2 then .seldecB2 (p.extractLsb' 0 2)
  else .seldecRsvd (p.extractLsb' 0 2)

/-- The row of the Segment Encoding Table (R63) that a digit code names. -/
def decodeDig (d : DigCode) : Instr :=
  if d = 0 then .seg0
  else if d = 1 then .seg1
  else if d = 2 then .seg2
  else if d = 3 then .seg3
  else if d = 4 then .seg4
  else if d = 5 then .seg5
  else if d = 6 then .seg6
  else if d = 7 then .seg7
  else if d = 8 then .seg8
  else if d = 9 then .seg9
  else if d.extractLsb' 1 3 = 5 then .segRsvdA (d.extractLsb' 0 1)
  else .segRsvdB (d.extractLsb' 0 2)

/-- The operation that the low bits of a byte name in a space. -/
def decodeLow (sp : Space) (w : Byte) : Instr :=
  match sp with
  | .evt => decodeEvt (w.setWidth 2)
  | .ph => decodePh (w.setWidth 3)
  | .posx => decodePosx (w.setWidth 4)
  | .dig => decodeDig (w.setWidth 4)

/-- The decoder of a byte in a space: total, and a byte wider than the space's format is rejected by name. -/
def decode (sp : Space) (w : Byte) : Except DecodeError Instr :=
  if w.toNat < 2 ^ sp.width then .ok (decodeLow sp w) else .error (.aboveFormat sp w)

/-- The code of an operation, written from the `encoding` column of the table: fixed bits above, the row's own bits below. -/
def encode : Instr → Byte
  | .reset t => (0b0000001#7 ++ t)
  | .tick => 0b00000001#8
  | .notick => 0b00000000#8
  | .fetch => 0b00000000#8
  | .blank => 0b00000001#8
  | .select => 0b00000010#8
  | .drive => 0b00000011#8
  | .hold => 0b00000100#8
  | .aux => 0b00000101#8
  | .recover x => (0b0000011#7 ++ x)
  | .seldecB0 j => (0b000000#6 ++ j)
  | .seldecB1 j => (0b000001#6 ++ j)
  | .seldecB2 j => (0b000010#6 ++ j)
  | .seldecRsvd j => (0b000011#6 ++ j)
  | .seg0 => 0b00000000#8
  | .seg1 => 0b00000001#8
  | .seg2 => 0b00000010#8
  | .seg3 => 0b00000011#8
  | .seg4 => 0b00000100#8
  | .seg5 => 0b00000101#8
  | .seg6 => 0b00000110#8
  | .seg7 => 0b00000111#8
  | .seg8 => 0b00001000#8
  | .seg9 => 0b00001001#8
  | .segRsvdA x => (0b0000101#7 ++ x)
  | .segRsvdB x => (0b000011#6 ++ x)

/-- DESIGN CHOICE (log entry 8). The space in which a bare word of the opcode table is read: the four spaces overlap and a word
carries no mark of its space. Given at its own width, 2 bits is EVT and 3 bits is PH; 4 bits is a digit code. Given in whole
bytes it is read as the code the machine holds in the place of a program counter (R28), a phase, when it has 3 bits, and as a
digit code when it has a fourth. -/
def tableSpace (nbits w : Nat) : Space :=
  if nbits ≤ 2 then .evt
  else if nbits = 3 then .ph
  else if nbits = 4 then .dig
  else if w < 8 then .ph
  else .dig

/-- The operation that the decoder reads from a word of the opcode table (log entry 8). -/
def decodeTableWord (nbits w : Nat) : Option Instr :=
  if w < 256 then
    match decode (tableSpace nbits w) (BitVec.ofNat 8 w) with
    | .ok i => some i
    | .error _ => none
  else none

end Sys2Proof
end

