-- ==== Sys2Proof/Config.lean ====
section
/-! DEFINITION. The parameters of CORE (00_scope.md R5): the constants, the build parameters as plain data, and the constants
without a value that stand for what the spec leaves open. -/

namespace Sys2Proof

/-- COUNTER_MAX (R5): the largest value of a counter. -/
def Config.counterMax : Nat := 9999

/-- MODULUS, and by decision D4 also TOP_MODULUS (R5). -/
def Config.modulus : Nat := 10000

/-- N_BLOCKS (R5). -/
def Config.nBlocks : Nat := 3

/-- DIGITS_PER_BLOCK (R5). -/
def Config.digitsPerBlock : Nat := 4

/-- N_POS (R5). -/
def Config.nPos : Nat := 12

/-- The build parameters, "an argument of the model (a field of its configuration)" (R5). They are fixed when the hardware is
built; `State.cfg` carries them so that a statement about every state is a statement about every admissible build. -/
structure Params where
  /-- SETTLE_CYCLES, OPEN, an integer of at least 1 (decision D12). -/
  settleCycles : Nat
  /-- SEG_ACTIVE_LEVEL: the pin level of a lit segment (R70, decision D7). -/
  segActive : Bool
  /-- SEL_ACTIVE_LEVEL: the pin level of the selected position, OPEN (decision D8). -/
  selActive : Bool
  /-- AUX_ACTIVE_LEVEL: the pin level of the lit indicator, OPEN (decision D9). -/
  auxActive : Bool
  /-- SEG_TABLE, the seven entries the source does not print (R63, decision D25). -/
  seg2 : Seg
  seg3 : Seg
  seg4 : Seg
  seg5 : Seg
  seg6 : Seg
  seg7 : Seg
  seg9 : Seg
  deriving DecidableEq, Repr

/-- DESIGN CHOICE (log entry 3). SETTLE_CYCLES - 1 of the machine that `State.reset` describes; no value is known. -/
opaque Config.openSettle : Nat

/-- DESIGN CHOICE (log entry 3). SEL_ACTIVE_LEVEL of the machine that `State.reset` describes; no value is known. -/
opaque Config.openSelLevel : Bool

/-- DESIGN CHOICE (log entry 3). AUX_ACTIVE_LEVEL of the machine that `State.reset` describes; no value is known. -/
opaque Config.openAuxLevel : Bool

/-- DESIGN CHOICE (log entry 2). The free input of R157: what the platform presents on {rst_i, tick_i} at the edge of that
number, where no input stream says it; no value is known. -/
opaque Config.freeEvt : Nat → Evt

/-- The width of a register that counts 0 to `n - 1`: max(1, ceil(log2 n)) bits for `n` of at least 1 (R5, R152). -/
def Config.counterWidth (n : Nat) : Nat := Nat.log2 (n - 1) + 1

/-- SW, the width of the settle counter (R5). -/
def Params.settleWidth (c : Params) : Nat := Config.counterWidth c.settleCycles

/-- The companion timer (60_exceptions.md R152), part of the platform and not of CORE: its period TICK_PERIOD and its register
`tmr`, of max(1, ceil(log2 TICK_PERIOD)) bits. -/
structure Timer where
  /-- TICK_PERIOD, an integer of at least 1 (R5, R153). -/
  period : Nat
  /-- The running count, below 2 to the register's width. -/
  tmr : Nat
  deriving DecidableEq, Repr

end Sys2Proof
end

