-- ==== Sys2Proof/Machine/Table.lean ====
section
/-! DEFINITION. The Segment Encoding Table (30_encoding.md R63, 20_memory.md R42): the three entries the source prints, the
spec's defaults for the other seven, and the lookup by digit code. -/

namespace Sys2Proof.Machine

/-- SegTable(0), printed in the source: segments A to F. -/
def entry0 : Seg := 0b0111111#7

/-- SegTable(1), printed in the source: segments B and C. -/
def entry1 : Seg := 0b0000110#7

/-- SegTable(8), printed in the source: all seven segments. -/
def entry8 : Seg := 0b1111111#7

/-- The pattern of every reserved digit code, 10 to 15 (R63, R75 (b), decision D20). -/
def entryReserved : Seg := 0b0000000#7

/-- SegTable (R63): the pattern of a 4-bit digit code, from the build's table. -/
def segTable (c : Params) (d : DigCode) : Seg :=
  if d = 0 then entry0
  else if d = 1 then entry1
  else if d = 2 then c.seg2
  else if d = 3 then c.seg3
  else if d = 4 then c.seg4
  else if d = 5 then c.seg5
  else if d = 6 then c.seg6
  else if d = 7 then c.seg7
  else if d = 8 then entry8
  else if d = 9 then c.seg9
  else entryReserved

/-- Build parameters with the spec's defaults where it gives any: the customary numerals for the seven entries the source does
not print (R63; PRESUMED, log entry 4) and SEG_ACTIVE_LEVEL = 0, the reference design's (R70, D7; log entry 5). -/
def referenceParams (settleCycles : Nat) (selActive auxActive : Bool) : Params :=
  { settleCycles := settleCycles
    segActive := false
    selActive := selActive
    auxActive := auxActive
    seg2 := 0b1011011#7
    seg3 := 0b1001111#7
    seg4 := 0b1100110#7
    seg5 := 0b1101101#7
    seg6 := 0b1111101#7
    seg7 := 0b0000111#7
    seg9 := 0b1101111#7 }

/-- The build that `State.reset` describes: the spec's defaults, and for the OPEN parameters constants without a value
(DESIGN CHOICE, log entry 3). -/
def buildParams : Params :=
  referenceParams (Config.openSettle + 1) Config.openSelLevel Config.openAuxLevel

end Sys2Proof.Machine
end

