-- ==== Sys2Proof/Machine/State.lean ====
section
/-! DEFINITION. The state of CORE as plain data (10_state.md R27), the build parameters and the platform's side beside it, the
reasons a step can stop, and the state after reset (R32). -/

namespace Sys2Proof.Machine

/-- The Counter Bank (R18): `c0` counts ticks, each higher counter counts the overflows of the one below it. -/
structure Bank where
  c0 : Dec
  c1 : Dec
  c2 : Dec
  c3 : Dec
  deriving DecidableEq, Repr

/-- The platform's side of the ports (60_exceptions.md R157). None of it is state of CORE; it says what the input pins will be. -/
structure Platform where
  /-- The number of rising edges taken: the argument of the free input (log entry 2). -/
  edge : Nat
  /-- The EVT codes {rst_i, tick_i} presented at the coming edges, the next one first; after the last one the input is free. -/
  stream : List Evt
  /-- The companion timer that drives tick_i, when one is attached (R152, log entry 9). -/
  timer : Option Timer
  deriving DecidableEq, Repr

/-- The state during a cycle. The first nine fields are the registers of R27; `cfg` and `plat` are not architectural state. -/
structure State where
  /-- cnt[0..3], the Counter Bank (R18). -/
  cnt : Bank
  /-- The part of the sampled counter value not displayed yet (R19). -/
  val : Dec
  /-- The phase register (R20). -/
  ph : PhCode
  /-- The block index (R21). -/
  blk : Idx
  /-- The digit index (R22). -/
  dig : Idx
  /-- The hold counter (R23), of SW bits; SW depends on a parameter, so the register is held as its number (log entry 6). -/
  settle : Nat
  /-- seg_on, the logical segment values (R24). -/
  segOn : Seg
  /-- sel_on, the logical select values (R25). -/
  selOn : Sel
  /-- aux_on, the logical indicator value (R26). -/
  auxOn : Bool
  /-- The build parameters (R5); no operation writes them. -/
  cfg : Params
  /-- The platform's side of the ports; only the end of an edge moves it. -/
  plat : Platform
  deriving DecidableEq, Repr

/-- CORE raises no exception and has no error state: "the step function is total" (R140). So there is no fault to name; nothing
raises one, which is safe. -/
inductive Fault where
  deriving DecidableEq, Repr

/-- Why a step has no meaning. -/
inductive Refusal where
  /-- An operation of the table without a meaning in this model, raised by an arm of `exec`; safe. No arm raises it. -/
  | notModelled (mnemonic : String)
  deriving DecidableEq, Repr

/-- The platform's side at reset (log entries 2 and 9): no edge counted, no input stream, no timer attached, so that every input
is free. -/
def Platform.free : Platform := { edge := 0, stream := [], timer := none }

/-- The bank with every counter zero. -/
def Bank.zero : Bank := { c0 := 0, c1 := 0, c2 := 0, c3 := 0 }

/-- The state after a RESET step (R32, R160). -/
def State.reset : State :=
  { cnt := Bank.zero
    val := 0
    ph := 0
    blk := 0
    dig := 0
    settle := 0
    segOn := 0
    selOn := 0
    auxOn := false
    cfg := buildParams
    plat := Platform.free }

end Sys2Proof.Machine
end

