-- ==== Sys2Proof/Machine/Ops.lean ====
section
/-! DEFINITION. The named operations over the registers of CORE and over its ports. -/

namespace Sys2Proof.Machine

/-- cnt[i] (R41): the element of the bank space that a 2-bit index names. -/
def Bank.get (b : Bank) (i : Idx) : Dec :=
  if i = 0 then b.c0
  else if i = 1 then b.c1
  else if i = 2 then b.c2
  else b.c3

/-- cnt <- b: the four counters change together (R48 (b)). -/
def State.setBank (s : State) (b : Bank) : State := { s with cnt := b }

/-- val <- v. -/
def State.setVal (s : State) (v : Dec) : State := { s with val := v }

/-- ph <- p. -/
def State.setPh (s : State) (p : PhCode) : State := { s with ph := p }

/-- blk <- b. -/
def State.setBlk (s : State) (b : Idx) : State := { s with blk := b }

/-- dig <- j. -/
def State.setDig (s : State) (j : Idx) : State := { s with dig := j }

/-- settle <- n. -/
def State.setSettle (s : State) (n : Nat) : State := { s with settle := n }

/-- seg_on <- v: the seven lines change together (R48 (c)). -/
def State.setSegOn (s : State) (v : Seg) : State := { s with segOn := v }

/-- sel_on <- v: the twelve lines change together (R48 (c)). -/
def State.setSelOn (s : State) (v : Sel) : State := { s with selOn := v }

/-- aux_on <- a. -/
def State.setAuxOn (s : State) (a : Bool) : State := { s with auxOn := a }

/-- Every register at its reset value (R32, R160); the build and the platform's side are not registers and stay. -/
def State.toReset (s : State) : State := { State.reset with cfg := s.cfg, plat := s.plat }

/-- The EVT code the platform offers at the coming edge: the head of the input stream, else the free input of that edge
(R157, log entry 2). -/
def State.offered (s : State) : Evt :=
  match s.plat.stream with
  | e :: _ => e
  | [] => Config.freeEvt s.plat.edge

/-- rst_i during the cycle (R12). -/
def State.rstI (s : State) : Bool := s.offered.getLsbD 1

/-- The companion timer's output: 1 when rst_i = 0 and tmr = TICK_PERIOD - 1 (R152). -/
def timerFires (t : Timer) (rst : Bool) : Bool := !rst && decide (t.tmr = t.period - 1)

/-- tick_i during the cycle (R13): the attached timer's output, else what the platform offers. -/
def State.tickI (s : State) : Bool :=
  match s.plat.timer with
  | some t => timerFires t s.rstI
  | none => s.offered.getLsbD 0

/-- The pair {rst_i, tick_i} sampled at the edge that closes the cycle (R11, R68). -/
def State.evt (s : State) : Evt := BitVec.ofBool s.rstI ++ BitVec.ofBool s.tickI

/-- rearm_o (R17, R94): combinational, 1 exactly when rst_i = 0 and tick_i = 1. -/
def State.rearmO (s : State) : Bool := !s.rstI && s.tickI

/-- The companion timer at a rising edge (R152): cleared by rst_i and by rearm_o, else counted on in its register's width. -/
def timerNext (t : Timer) (rst rearm : Bool) : Timer :=
  if rst then { t with tmr := 0 }
  else if rearm then { t with tmr := 0 }
  else { t with tmr := (t.tmr + 1) % 2 ^ Config.counterWidth t.period }

/-- The platform's side after the edge that closes the cycle of `s`: the edge is counted, the offered code is used up, and an
attached timer has taken its own step. -/
def State.nextPlat (s : State) : Platform :=
  { edge := s.plat.edge + 1
    stream := s.plat.stream.tail
    timer := s.plat.timer.map fun t => timerNext t s.rstI s.rearmO }

/-- The end of an edge: the registers of `t` with the platform's side moved on from the state `s` before the edge. -/
def State.closeEdge (s t : State) : State := { t with plat := s.nextPlat }

/-- The joint effect of the two sub-steps of an edge (R7, R147): the bank from the bank operation, every other register from the
micro-operation. -/
def joinRegs (bankSide scanSide : State) : State := { scanSide with cnt := bankSide.cnt }

/-- Two outcomes of one edge joined: a next state when both are, else the stop that came first. -/
def joinOutcomes (bankSide scanSide : Host.Outcome State Fault Refusal) : Host.Outcome State Fault Refusal :=
  match bankSide with
  | .next b =>
    match scanSide with
    | .next m => .next (joinRegs b m)
    | .fault r => .fault r
    | .refused r => .refused r
  | .fault r => .fault r
  | .refused r => .refused r

/-- An outcome with its next state passed on through a function. -/
def mapOutcome (f : State → State) (o : Host.Outcome State Fault Refusal) : Host.Outcome State Fault Refusal :=
  match o with
  | .next t => .next (f t)
  | .fault r => .fault r
  | .refused r => .refused r

end Sys2Proof.Machine
end

