-- ==== Sys2Proof/Machine/Operands.lean ====
section
/-! DEFINITION. Operand assembly (30_encoding.md R69) and the two constant decoders it feeds: the position map (R66) and the
Digit Selector (41_digit_selector.md R100). -/

namespace Sys2Proof.Machine

/-- Pos(b, j) = {b, j} (R66): the position index of digit `j` of block `b`. -/
def pos (b j : Idx) : Posx := b ++ j

/-- SelDecode(p) (R100): one bit for positions 0 to 11, none for the reserved indices 12 to 15. -/
def selDecode (p : Posx) : Sel :=
  if p.toNat ≤ 11 then BitVec.ofNat 12 (2 ^ p.toNat) else 0

/-- The digit code of DRIVE (R69 (a)): val mod 10. -/
def digitOf (v : Dec) : DigCode := BitVec.ofNat 4 (v.toNat % 10)

/-- What DRIVE leaves in val (R69 (a)): val div 10. -/
def quotient (v : Dec) : Dec := BitVec.ofNat 14 (v.toNat / 10)

/-- sel_on <- SelDecode(p): the one write of `select(index)` (R103). -/
def loadSel (p : Posx) (s : State) : State := s.setSelOn (selDecode p)

/-- seg_on <- SegTable(d): the lighting write of a digit (R124 step 4). -/
def loadSeg (d : DigCode) (s : State) : State := s.setSegOn (segTable s.cfg d)

end Sys2Proof.Machine
end

