-- ==== Sys2Proof/Machine/Flags.lean ====
section
/-! DEFINITION. The one status bit, the carries of a TICK and the end-of-hold test. -/

namespace Sys2Proof.Machine

/-- The parity operand of AUX (R69 (d), R29): bit 0 of a counter, 1 when it is odd. -/
def parity (v : Dec) : Bool := v.getLsbD 0

/-- One counter of a TICK (R90): the counter's new value and the carry out of it, given the carry into it. The sum is exact
(R92 (b)). -/
def tickCounter (carry : Bool) (v : Dec) : Dec × Bool :=
  if carry && decide (v.toNat + carry.toNat > Config.counterMax) then (0, true)
  else (BitVec.ofNat 14 (v.toNat + carry.toNat), false)

/-- The bank after a TICK (R90): the carry runs from counter 0 up; the carry out of counter 3 is discarded (decision D4). -/
def tickBank (b : Bank) : Bank :=
  let r0 := tickCounter true b.c0
  let r1 := tickCounter r0.2 b.c1
  let r2 := tickCounter r1.2 b.c2
  let r3 := tickCounter r2.2 b.c3
  { c0 := r0.1, c1 := r1.1, c2 := r2.1, c3 := r3.1 }

/-- The end-of-hold test (R69 (f)): settle >= SETTLE_CYCLES - 1. -/
def holdEnds (s : State) : Bool := decide (s.settle ≥ s.cfg.settleCycles - 1)

end Sys2Proof.Machine
end

