-- ==== Sys2Proof/Machine/Event.lean ====
section
/-! DEFINITION. The three events of a clock edge: RESET (70_reset_and_hazards.md R160), TICK and NOTICK (40_tick.md R90, R93). -/

namespace Sys2Proof.Machine

/-- RESET (R160): every register to its reset value; tick_i is ignored. -/
def execReset (_t : BitVec 1) (s : State) : Host.Outcome State Fault Refusal :=
  .next s.toReset

/-- TICK (R90): the bank advanced by one. -/
def execTick (s : State) : Host.Outcome State Fault Refusal :=
  .next (s.setBank (tickBank s.cnt))

/-- NOTICK (R93): the bank as it is. -/
def execNotick (s : State) : Host.Outcome State Fault Refusal :=
  .next (s.setBank s.cnt)

end Sys2Proof.Machine
end

