-- ==== Sys2Proof/Machine/Scanner.lean ====
section
/-! DEFINITION. The scanner's micro-operations (42_scanner.md R110 to R116). -/

namespace Sys2Proof.Machine

/-- FETCH (R110): val <- cnt[blk]; dig <- 0; ph <- 1. -/
def execFetch (s : State) : Host.Outcome State Fault Refusal :=
  .next (((s.setVal (s.cnt.get s.blk)).setDig 0).setPh 1)

/-- BLANK (R111): seg_on <- 0; ph <- 2. -/
def execBlank (s : State) : Host.Outcome State Fault Refusal :=
  .next ((s.setSegOn 0).setPh 2)

/-- SELECT (R112): sel_on <- SelDecode(Pos(blk, dig)); ph <- 3. -/
def execSelect (s : State) : Host.Outcome State Fault Refusal :=
  .next ((loadSel (pos s.blk s.dig) s).setPh 3)

/-- DRIVE (R113): seg_on <- SegTable(val mod 10); val <- val div 10; ph <- 4. -/
def execDrive (s : State) : Host.Outcome State Fault Refusal :=
  .next (((loadSeg (digitOf s.val) s).setVal (quotient s.val)).setPh 4)

/-- The last HOLD cycle of a position (R114): to the next digit, the next block, or AUX. -/
def advancePosition (s : State) : State :=
  if s.dig.toNat < 3 then (s.setDig (s.dig + 1)).setPh 1
  else if s.blk.toNat < 2 then (s.setBlk (s.blk + 1)).setPh 0
  else s.setPh 5

/-- HOLD (R114): count the settle delay, and at its last cycle advance. -/
def execHold (s : State) : Host.Outcome State Fault Refusal :=
  .next (if holdEnds s then advancePosition (s.setSettle 0) else s.setSettle (s.settle + 1))

/-- AUX (R115): aux_on <- cnt[1][0]; blk <- 0; ph <- 0. -/
def execAux (s : State) : Host.Outcome State Fault Refusal :=
  .next (((s.setAuxOn (parity s.cnt.c1)).setBlk 0).setPh 0)

/-- RECOVER (R116): ph, blk, dig and settle to 0; ph[0] is ignored. -/
def execRecover (_x : BitVec 1) (s : State) : Host.Outcome State Fault Refusal :=
  .next ((((s.setPh 0).setBlk 0).setDig 0).setSettle 0)

end Sys2Proof.Machine
end

