-- ==== Sys2Proof/Machine/Segments.lean ====
section
/-! DEFINITION. The rows of the Segment Encoding Table (30_encoding.md R63) as the operation that lights a digit's pattern
(42_scanner.md R124 step 4): one write of seg_on and nothing else. At cycle level DRIVE performs the row that its digit code
names. -/

namespace Sys2Proof.Machine

/-- SEG0: the pattern of digit 0, printed in the source. -/
def execSeg0 (s : State) : Host.Outcome State Fault Refusal :=
  .next (loadSeg 0 s)

/-- SEG1: the pattern of digit 1, printed in the source. -/
def execSeg1 (s : State) : Host.Outcome State Fault Refusal :=
  .next (loadSeg 1 s)

/-- SEG2: the pattern of digit 2, a parameter of the build. -/
def execSeg2 (s : State) : Host.Outcome State Fault Refusal :=
  .next (loadSeg 2 s)

/-- SEG3: the pattern of digit 3, a parameter of the build. -/
def execSeg3 (s : State) : Host.Outcome State Fault Refusal :=
  .next (loadSeg 3 s)

/-- SEG4: the pattern of digit 4, a parameter of the build. -/
def execSeg4 (s : State) : Host.Outcome State Fault Refusal :=
  .next (loadSeg 4 s)

/-- SEG5: the pattern of digit 5, a parameter of the build. -/
def execSeg5 (s : State) : Host.Outcome State Fault Refusal :=
  .next (loadSeg 5 s)

/-- SEG6: the pattern of digit 6, a parameter of the build. -/
def execSeg6 (s : State) : Host.Outcome State Fault Refusal :=
  .next (loadSeg 6 s)

/-- SEG7: the pattern of digit 7, a parameter of the build. -/
def execSeg7 (s : State) : Host.Outcome State Fault Refusal :=
  .next (loadSeg 7 s)

/-- SEG8: the pattern of digit 8, printed in the source. -/
def execSeg8 (s : State) : Host.Outcome State Fault Refusal :=
  .next (loadSeg 8 s)

/-- SEG9: the pattern of digit 9, a parameter of the build. -/
def execSeg9 (s : State) : Host.Outcome State Fault Refusal :=
  .next (loadSeg 9 s)

/-- SEG.RSVD_A: digit codes 10 and 11 light nothing. -/
def execSegRsvdA (x : BitVec 1) (s : State) : Host.Outcome State Fault Refusal :=
  .next (loadSeg (0b101#3 ++ x) s)

/-- SEG.RSVD_B: digit codes 12 to 15 light nothing. -/
def execSegRsvdB (x : BitVec 2) (s : State) : Host.Outcome State Fault Refusal :=
  .next (loadSeg (0b11#2 ++ x) s)

end Sys2Proof.Machine
end

