-- ==== Sys2Proof/Machine/Selector.lean ====
section
/-! DEFINITION. The rows of the Digit Selector (41_digit_selector.md R100) as the operation `select(index)` (R103): one write of
sel_on and nothing else. At cycle level SELECT performs the row that its position index names. -/

namespace Sys2Proof.Machine

/-- SELDEC.B0: `select(0 + j)`. -/
def execSeldecB0 (j : Idx) (s : State) : Host.Outcome State Fault Refusal :=
  .next (loadSel (pos 0 j) s)

/-- SELDEC.B1: `select(4 + j)`. -/
def execSeldecB1 (j : Idx) (s : State) : Host.Outcome State Fault Refusal :=
  .next (loadSel (pos 1 j) s)

/-- SELDEC.B2: `select(8 + j)`. -/
def execSeldecB2 (j : Idx) (s : State) : Host.Outcome State Fault Refusal :=
  .next (loadSel (pos 2 j) s)

/-- SELDEC.RSVD: a reserved index selects nothing. -/
def execSeldecRsvd (j : Idx) (s : State) : Host.Outcome State Fault Refusal :=
  .next (loadSel (pos 3 j) s)

end Sys2Proof.Machine
end

