-- ==== Sys2Proof/Machine/Dispatch.lean ====
section
/-! DEFINITION. One arm per operation of the table. -/

namespace Sys2Proof.Machine

def exec (i : Instr) (s : State) : Host.Outcome State Fault Refusal :=
  match i with
  | .reset t => Sys2Proof.Machine.execReset t s
  | .tick => Sys2Proof.Machine.execTick s
  | .notick => Sys2Proof.Machine.execNotick s
  | .fetch => Sys2Proof.Machine.execFetch s
  | .blank => Sys2Proof.Machine.execBlank s
  | .select => Sys2Proof.Machine.execSelect s
  | .drive => Sys2Proof.Machine.execDrive s
  | .hold => Sys2Proof.Machine.execHold s
  | .aux => Sys2Proof.Machine.execAux s
  | .recover x => Sys2Proof.Machine.execRecover x s
  | .seldecB0 j => Sys2Proof.Machine.execSeldecB0 j s
  | .seldecB1 j => Sys2Proof.Machine.execSeldecB1 j s
  | .seldecB2 j => Sys2Proof.Machine.execSeldecB2 j s
  | .seldecRsvd j => Sys2Proof.Machine.execSeldecRsvd j s
  | .seg0 => Sys2Proof.Machine.execSeg0 s
  | .seg1 => Sys2Proof.Machine.execSeg1 s
  | .seg2 => Sys2Proof.Machine.execSeg2 s
  | .seg3 => Sys2Proof.Machine.execSeg3 s
  | .seg4 => Sys2Proof.Machine.execSeg4 s
  | .seg5 => Sys2Proof.Machine.execSeg5 s
  | .seg6 => Sys2Proof.Machine.execSeg6 s
  | .seg7 => Sys2Proof.Machine.execSeg7 s
  | .seg8 => Sys2Proof.Machine.execSeg8 s
  | .seg9 => Sys2Proof.Machine.execSeg9 s
  | .segRsvdA x => Sys2Proof.Machine.execSegRsvdA x s
  | .segRsvdB x => Sys2Proof.Machine.execSegRsvdB x s

end Sys2Proof.Machine
end

