-- ==== Sys2Proof/Machine/Edge.lean ====
section
/-! DEFINITION. One rising edge of the clock (30_encoding.md R71, 00_scope.md R7), and how a word of the opcode table is placed
so that the next edge performs it. -/

namespace Sys2Proof.Machine

/-- The two sub-steps of an edge with rst_i = 0, each reading the state before it (R71, R147). -/
def runBoth (s : State) : Host.Outcome State Fault Refusal :=
  joinOutcomes (exec (decodeEvt s.evt) s) (exec (decodePh s.ph) s)

/-- One rising edge (R71): RESET alone at rst_i = 1, else the bank operation and the micro-operation; then the platform's side
moves on. -/
def runEdge (s : State) : Host.Outcome State Fault Refusal :=
  mapOutcome s.closeEdge (if s.rstI then exec (decodeEvt s.evt) s else runBoth s)

/-- The platform will present the EVT code `e` at the coming edge; a timer that would drive tick_i instead is taken off. -/
def State.placeEvt (e : Evt) (s : State) : State :=
  { s with plat := { s.plat with stream := e :: s.plat.stream, timer := none } }

/-- The platform will hold rst_i = 0 at the coming edge. -/
def State.placeRun (s : State) : State :=
  { s with plat := { s.plat with stream := 0b00#2 :: s.plat.stream } }

/-- The state in which the coming edge performs a decoded operation (log entry 8): an event is put on the pins, a
micro-operation into ph, a position into (blk, dig) of a SELECT, a digit code into val of a DRIVE. DRIVE forms no digit code above
9 (R75 (b)), so the reserved rows of the table cannot be placed: DRIVE then lights the ones digit of the code. -/
def State.place (i : Instr) (s : State) : State :=
  match spaceOf i with
  | .evt => s.placeEvt ((encode i).setWidth 2)
  | .ph => s.placeRun.setPh ((encode i).setWidth 3)
  | .posx =>
    ((s.placeRun.setBlk ((encode i).extractLsb' 2 2)).setDig ((encode i).extractLsb' 0 2)).setPh 2
  | .dig => (s.placeRun.setVal ((encode i).setWidth 14)).setPh 3

/-- A word of the opcode table placed for the coming edge; a word that is no code changes nothing. -/
def State.placeWord (s : State) (nbits w : Nat) : State :=
  match decodeTableWord nbits w with
  | some i => s.place i
  | none => s

end Sys2Proof.Machine
end

