-- ==== Sys2Proof/Machine/Step.lean ====
section
/-! DEFINITION. The step of the machine is one rising edge of clk_i (10_state.md R11). -/

namespace Sys2Proof.Machine

/-- S_(n+1) from S_n (R11). -/
def step (s : State) : Host.Outcome State Fault Refusal := runEdge s

/-- `s` with a word of the opcode table placed where the next step performs it (log entry 8). -/
def State.withFetchWord (s : State) (nbits w : Nat) : State := s.placeWord nbits w

end Sys2Proof.Machine
end

