-- ==== Sys2Proof/Machine/Contracts.lean ====
section
/-! DEFINITION. The operation level: the contracts tick(), select(index), render_block(block_index, value) and run_forever()
(30_encoding.md R76 to R81, 40_tick.md R95, 42_scanner.md R124 to R126), and the cycle counts (70_reset_and_hazards.md R180). -/

namespace Sys2Proof.Machine

/-- The two kinds of atomic operation that the operation level interleaves (00_scope.md section 6, R52). -/
inductive OpEvent where
  /-- One `tick()` (R95). -/
  | tick
  /-- One micro-operation of the scanner, the one ph names (R117). -/
  | scan
  deriving DecidableEq, Repr

/-- One atomic operation of the operation level. -/
def opStep (e : OpEvent) (s : State) : Host.Outcome State Fault Refusal :=
  match e with
  | .tick => exec .tick s
  | .scan => exec (decodePh s.ph) s

/-- A run of the operation level: the operations of a list one after the other, stopping at a stop. -/
def opRun : List OpEvent → State → Host.Outcome State Fault Refusal
  | [], s => .next s
  | e :: es, s =>
    match opStep e s with
    | .next t => opRun es t
    | .fault r => .fault r
    | .refused r => .refused r

/-- The operations of one edge with rst_i = 0, in the order that gives the edge's effect (R52, R147): the scanner's first. -/
def edgeEvents (s : State) : List OpEvent :=
  if s.tickI then [.scan, .tick] else [.scan]

/-- (v div 10^j) mod 10 (R61): the decimal digit of weight 10^j, as a digit code. -/
def decimalDigit (v : Dec) (j : Nat) : DigCode := BitVec.ofNat 4 (v.toNat / 10 ^ j % 10)

/-- The (select, segment-pattern) pair that `render_block(b, v)` shows for digit `j` (R124). -/
def renderPair (c : Params) (b : Idx) (v : Dec) (j : Idx) : Sel × Seg :=
  (selDecode (pos b j), segTable c (decimalDigit v j.toNat))

/-- The pairs of `render_block(b, v)` in order, least-significant digit first (R124). -/
def renderBlock (c : Params) (b : Idx) (v : Dec) : List (Sel × Seg) :=
  [renderPair c b v 0, renderPair c b v 1, renderPair c b v 2, renderPair c b v 3]

/-- Cycles of one digit (R180): BLANK, SELECT, DRIVE and the hold. -/
def digitCycles (settleCycles : Nat) : Nat := 3 + settleCycles

/-- Cycles of one block (R180): a FETCH and four digits. -/
def blockCycles (settleCycles : Nat) : Nat := 1 + 4 * digitCycles settleCycles

/-- Cycles of one scan pass (R180): three blocks and an AUX. -/
def passCycles (settleCycles : Nat) : Nat := 3 * blockCycles settleCycles + 1

/-- The micro-operations of one digit (R81). -/
def digitOps (settleCycles : Nat) : List Instr :=
  [.blank, .select, .drive] ++ List.replicate settleCycles .hold

/-- The micro-operations of one block (R78, R81). -/
def blockOps (settleCycles : Nat) : List Instr :=
  .fetch :: (digitOps settleCycles ++ (digitOps settleCycles ++ (digitOps settleCycles ++ digitOps settleCycles)))

/-- The micro-operations of one scan pass of `run_forever()` (R79, R81, R119). -/
def passOps (settleCycles : Nat) : List Instr :=
  blockOps settleCycles ++ (blockOps settleCycles ++ (blockOps settleCycles ++ [.aux]))

end Sys2Proof.Machine
end

