-- ==== Sys2Proof/Machine/Pins.lean ====
section
/-! DEFINITION. The output ports as functions of the state (10_state.md R14 to R17, 30_encoding.md R70). -/

namespace Sys2Proof.Machine

/-- Format PIN (R70): the pin level of a logical bit for an active level `level`. -/
def pinBit (level s : Bool) : Bool := if s then level else !level

/-- PinSeg and PinSel (R70): the pin levels of a group of lines. -/
def pinVec {w : Nat} (level : Bool) (v : BitVec w) : BitVec w := if level then v else ~~~v

/-- seg_o (R14). -/
def State.segO (s : State) : Seg := pinVec s.cfg.segActive s.segOn

/-- sel_o (R15). -/
def State.selO (s : State) : Sel := pinVec s.cfg.selActive s.selOn

/-- aux_o (R16). -/
def State.auxO (s : State) : Bool := pinBit s.cfg.auxActive s.auxOn

/-- The output ports of CORE during a cycle (R10). -/
structure Outputs where
  segO : Seg
  selO : Sel
  auxO : Bool
  rearmO : Bool
  deriving DecidableEq, Repr

/-- Every output port during the cycle of a state. -/
def State.outputs (s : State) : Outputs :=
  { segO := s.segO, selO := s.selO, auxO := s.auxO, rearmO := s.rearmO }

end Sys2Proof.Machine
end

