-- ==== Sys2Proof/WellFormed.lean ====
section
/-! DEFINITION. What makes an operation, a set of build parameters and a companion timer well formed. -/

namespace Sys2Proof

/-- An operation is well formed in the place where its code stands when it belongs to that place's code space (R71): a pin pair
names a RESET, TICK or NOTICK and nothing else, the phase register a micro-operation, and so on. The fields of an operation have
exactly their width by their type, so nothing else can be wrong with one. -/
def Instr.wellFormedIn (sp : Space) (i : Instr) : Bool := decide (spaceOf i = sp)

/-- The build parameters are in the ranges of R5: SETTLE_CYCLES is at least 1. The levels and the table entries have no other
range than their type's. -/
def Params.wellFormed (c : Params) : Bool := decide (1 ≤ c.settleCycles)

/-- A companion timer is in the range of R152: TICK_PERIOD is at least 1 and the count has not passed the last one. -/
def Timer.wellFormed (t : Timer) : Bool := decide (1 ≤ t.period) && decide (t.tmr < t.period)

end Sys2Proof
end

