-- ==== Sys2Proof/Safety.lean ====
section
/-! DEFINITION. What counts as a legal state and a safe run of CORE: the invariants of 10_state.md R31, the hazards of
70_reset_and_hazards.md, and runs of whole edges. -/

namespace Sys2Proof.Machine

/-- I1 (R31): every counter is at most 9999. -/
structure BankLegal (b : Bank) : Prop where
  c0 : b.c0.toNat ≤ Config.counterMax
  c1 : b.c1.toNat ≤ Config.counterMax
  c2 : b.c2.toNat ≤ Config.counterMax
  c3 : b.c3.toNat ≤ Config.counterMax

/-- The values sel_on ever holds (R64): nothing selected, or one position of 0 to 11. -/
def SelLegal (v : Sel) : Prop := v = 0 ∨ ∃ p : Fin 12, v = BitVec.ofNat 12 (2 ^ p.val)

/-- I9 (R31): seg_on is 0 or one of the ten patterns of the table. -/
def SegLegal (c : Params) (v : Seg) : Prop := v = 0 ∨ ∃ d : Fin 10, v = segTable c (BitVec.ofNat 4 d.val)

/-- I7 (R31, R101): at most one select line is active. -/
def AtMostOne (v : Sel) : Prop :=
  ∀ p q : Nat, v.getLsbD p = true → v.getLsbD q = true → p = q

/-- Exactly one select line is active (R101). -/
def ExactlyOne (v : Sel) : Prop := AtMostOne v ∧ ∃ p : Nat, v.getLsbD p = true

/-- The invariant of the reachable states (R31) for builds whose parameters are in range: I1 to I7 and I9, and what the order of
the micro-operations adds (R119, R122): the segments are blank when a SELECT or a DRIVE is due (from which I8 follows), the
position being driven or held is the one {blk, dig} names, and val is what is left of the sample after the digits shown. -/
structure Inv (s : State) : Prop where
  params : s.cfg.wellFormed = true
  i1 : BankLegal s.cnt
  i2 : s.val.toNat ≤ Config.counterMax
  i3 : s.ph.toNat ≤ 5
  i4 : s.blk.toNat ≤ 2
  i5 : s.settle ≤ s.cfg.settleCycles - 1
  i6 : s.ph ≠ 4 → s.settle = 0
  i7 : SelLegal s.selOn
  i9 : SegLegal s.cfg s.segOn
  blanked : s.ph = 2 ∨ s.ph = 3 → s.segOn = 0
  shown : s.ph = 3 ∨ s.ph = 4 → s.selOn = selDecode (pos s.blk s.dig)
  left : s.ph = 1 ∨ s.ph = 2 ∨ s.ph = 3 → s.val.toNat < 10 ^ (4 - s.dig.toNat)
  leftHold : s.ph = 4 → s.val.toNat < 10 ^ (3 - s.dig.toNat)
  spent : s.ph = 0 ∨ s.ph = 5 → s.val = 0

/-- A companion timer that is attached is in its range (R152). -/
def TimerLegal (s : State) : Prop := ∀ t : Timer, s.plat.timer = some t → t.wellFormed = true

/-- The state after one edge; `step` never stops, so the other two cases keep the state only in name. -/
def edgeNext (s : State) : State :=
  match step s with
  | .next t => t
  | .fault _ => s
  | .refused _ => s

/-- The state after `n` edges. -/
def after : Nat → State → State
  | 0, s => s
  | n + 1, s => after n (edgeNext s)

/-- rst_i = 0 at each of the next `n` edges. -/
def NoReset (n : Nat) (s : State) : Prop := ∀ k : Nat, k < n → (after k s).rstI = false

/-- The number of TICKs among the next `n` edges (R13). -/
def ticksIn : Nat → State → Nat
  | 0, _ => 0
  | n + 1, s => (if s.rearmO then 1 else 0) + ticksIn n (edgeNext s)

/-- The operations of the next `n` edges, in operation-level order (R52). -/
def eventsIn : Nat → State → List OpEvent
  | 0, _ => []
  | n + 1, s => edgeEvents s ++ eventsIn n (edgeNext s)

/-- The micro-operations of the next `n` edges (R119). -/
def opsIn : Nat → State → List Instr
  | 0, _ => []
  | n + 1, s => decodePh s.ph :: opsIn n (edgeNext s)

/-- The scanner's sequencing state with its hold counter (R28, R181). -/
def State.sequencing (s : State) : PhCode × Idx × Idx × Nat := (s.ph, s.blk, s.dig, s.settle)

/-- The refresh floor (R175): at least 50 whole passes a second at a clock of `fClk` Hz. A duty of whoever fixes the parameters;
no rule of the model depends on it. -/
def RefreshFloor (fClk settleCycles : Nat) : Prop := 50 * passCycles settleCycles ≤ fClk

end Sys2Proof.Machine
end

