-- ==== Sys2Proof/Certificates/Slice0/Obligations.lean ====
section
/-! DEFINITION. The statements for the provers. Each docstring names the rules of spec/ it formalises. -/

open Sys2Proof Sys2Proof.Machine

/-! ### Encodings -/

/-- R63, R66 to R68, R100: the decoder of an operation's space reads every operation back from its code. -/
def Obligations.EncodingRoundTrips : Prop :=
  ∀ i : Instr, decode (spaceOf i) (encode i) = .ok i

/-- R60, R71, R72: every code of a space's width is exactly one operation of that space, and a byte with a bit above the
width is rejected by name. -/
def Obligations.EveryCodeIsOneOperation : Prop :=
  ∀ (sp : Space) (w : Byte),
    (w.toNat < 2 ^ sp.width → ∃ i, decode sp w = .ok i ∧ i.wellFormedIn sp = true ∧ encode i = w) ∧
    (2 ^ sp.width ≤ w.toNat → decode sp w = .error (.aboveFormat sp w))

/-- R63, R67, R68, R100: codes written out from the tables of the spec. -/
def Obligations.CodesOfTheSpecDecode : Prop :=
  decode .evt 0b00000011#8 = .ok (.reset 1) ∧ decode .evt 0b00000001#8 = .ok .tick ∧
  decode .evt 0b00000000#8 = .ok .notick ∧ decode .ph 0b00000100#8 = .ok .hold ∧
  decode .ph 0b00000111#8 = .ok (.recover 1) ∧ decode .posx 0b00001001#8 = .ok (.seldecB2 1) ∧
  decode .dig 0b00001001#8 = .ok .seg9 ∧ decode .dig 0b00001011#8 = .ok (.segRsvdA 1)

/-! ### One edge -/

/-- R68, R117: what an edge performs, by the pins and by the phase register. The edge runs the decoded operations on the state
before it and then moves the platform's side on (`closeEdge`, the model's choice, log entry 1). -/
def Obligations.EdgeRunsTheDecodedOperations : Prop :=
  (∀ s : State, s.rstI = true →
    ∃ x t, decodeEvt s.evt = .reset x ∧ exec (.reset x) s = .next t ∧ step s = .next (s.closeEdge t)) ∧
  (∀ s : State, s.rstI = false →
    decodeEvt s.evt = (if s.tickI then .tick else .notick) ∧
    (decodeEvt s.evt).wellFormedIn .evt = true ∧ (decodePh s.ph).wellFormedIn .ph = true ∧
    ∃ b m, exec (decodeEvt s.evt) s = .next b ∧ exec (decodePh s.ph) s = .next m ∧
      step s = .next (s.closeEdge { m with cnt := b.cnt })) ∧
  decodePh 0 = .fetch ∧ decodePh 1 = .blank ∧ decodePh 2 = .select ∧ decodePh 3 = .drive ∧ decodePh 4 = .hold ∧
  decodePh 5 = .aux ∧ decodePh 6 = .recover 0 ∧ decodePh 7 = .recover 1

/-- R147: an edge with a TICK equals the micro-operation and then the TICK as two atomic operations, and the two write disjoint
registers; the other order gives the same registers for every micro-operation but FETCH and AUX, which read the un-ticked
value. -/
def Obligations.TickedEdgeIsScannerThenTick : Prop :=
  ∀ s : State, s.rstI = false → s.tickI = true →
    ∃ m t, exec (decodePh s.ph) s = .next m ∧ exec .tick m = .next t ∧ step s = .next (s.closeEdge t) ∧
      m.cnt = s.cnt ∧ t = { m with cnt := t.cnt } ∧
      (s.ph = 0 → t.val = s.cnt.get s.blk) ∧ (s.ph = 5 → t.auxOn = decide (s.cnt.c1.toNat % 2 = 1)) ∧
      (s.ph ≠ 0 → s.ph ≠ 5 → ∃ b, exec .tick s = .next b ∧ exec (decodePh b.ph) b = .next t)

/-- R140: no operation and no edge stops. -/
def Obligations.NothingStops : Prop :=
  (∀ (i : Instr) (s : State), ∃ t, exec i s = .next t) ∧ (∀ s : State, ∃ t, step s = .next t)

/-! ### Reset -/

/-- R160: RESET writes every register, ignores its tick_i bit, and leaves rearm_o at 0. What the model keeps beside the
registers stays: `cfg`, which no operation writes (R5), and by the model's choice `plat` (log entry 1). -/
def Obligations.ResetClearsEveryRegister : Prop :=
  (∀ (x : BitVec 1) (s : State), exec (.reset x) s = .next
    { cnt := { c0 := 0, c1 := 0, c2 := 0, c3 := 0 }, val := 0, ph := 0, blk := 0, dig := 0, settle := 0,
      segOn := 0b0000000#7, selOn := 0x000#12, auxOn := false, cfg := s.cfg, plat := s.plat }) ∧
  (∀ s : State, s.rstI = true → s.rearmO = false ∧
    ∃ x t, decodeEvt s.evt = .reset x ∧ exec (.reset x) s = .next t ∧ step s = .next (s.closeEdge t))

/-- R32: the registers and the pins after a RESET step, and rearm_o during it. -/
def Obligations.ResetStepLeavesTheResetState : Prop :=
  ∀ s : State, s.rstI = true → ∃ t, step s = .next t ∧
    t.cnt.c0 = 0 ∧ t.cnt.c1 = 0 ∧ t.cnt.c2 = 0 ∧ t.cnt.c3 = 0 ∧ t.val = 0 ∧ t.ph = 0 ∧ t.blk = 0 ∧ t.dig = 0 ∧
    t.settle = 0 ∧ t.segOn = 0 ∧ t.selOn = 0 ∧ t.auxOn = false ∧
    (∀ p, p < 7 → t.segO.getLsbD p = !t.cfg.segActive) ∧ (∀ p, p < 12 → t.selO.getLsbD p = !t.cfg.selActive) ∧
    (t.auxO = !t.cfg.auxActive) ∧ s.rearmO = false

/-! ### The Counter Bank -/

/-- R90: TICK advances the bank by one with carries, for every value of the registers, the unreachable ones too, and writes
nothing else; rearm_o is 1 during a cycle whose edge performs it. -/
def Obligations.TickAdvancesTheBank : Prop :=
  (∀ s : State, ∃ (b : Bank) (c : Nat → Bool), exec .tick s = .next { s with cnt := b } ∧ c 0 = true ∧
    ∀ i : Nat, i < 4 →
      let old := (s.cnt.get (BitVec.ofNat 2 i)).toNat + (c i).toNat
      if c i = true ∧ 9999 < old then (b.get (BitVec.ofNat 2 i)).toNat = 0 ∧ c (i + 1) = true
      else (b.get (BitVec.ofNat 2 i)).toNat = old ∧ c (i + 1) = false) ∧
  (∀ s : State, s.rstI = false → s.tickI = true → s.rearmO = true ∧ decodeEvt s.evt = .tick)

/-- R91: the same TICK as one formula, where every counter is at most 9999. -/
def Obligations.TickIsOneFormula : Prop :=
  ∀ s : State, BankLegal s.cnt →
    let m := fun v : Dec => if v.toNat = 9999 then 1 else 0
    ∃ b : Bank, exec .tick s = .next { s with cnt := b } ∧
      b.c0.toNat = (s.cnt.c0.toNat + 1) % 10000 ∧
      b.c1.toNat = (s.cnt.c1.toNat + m s.cnt.c0) % 10000 ∧
      b.c2.toNat = (s.cnt.c2.toNat + m s.cnt.c0 * m s.cnt.c1) % 10000 ∧
      b.c3.toNat = (s.cnt.c3.toNat + m s.cnt.c0 * m s.cnt.c1 * m s.cnt.c2) % 10000

/-- R93: NOTICK leaves everything as it is, and an edge with the pins at 00 leaves the bank and keeps rearm_o at 0. -/
def Obligations.NotickKeepsTheBank : Prop :=
  (∀ s : State, exec .notick s = .next s) ∧
  (∀ s : State, s.rstI = false → s.tickI = false →
    decodeEvt s.evt = .notick ∧ s.rearmO = false ∧ ∃ t, step s = .next t ∧ t.cnt = s.cnt)

/-- R92 (d): from a zero bank the bank is the number of TICKs, written in digits of base 10000. The top counter rests on
decision D4. -/
def Obligations.BankIsTheTickCount : Prop :=
  ∀ (n : Nat) (s : State), s.cnt = Bank.zero → NoReset n s →
    (after n s).cnt.c0.toNat = ticksIn n s % 10000 ∧
    (after n s).cnt.c1.toNat = ticksIn n s / 10 ^ 4 % 10000 ∧
    (after n s).cnt.c2.toNat = ticksIn n s / 10 ^ 8 % 10000 ∧
    (after n s).cnt.c3.toNat = ticksIn n s / 10 ^ 12 % 10000

/-- R96: the bank depends on the number of TICKs alone: two runs from equal banks with equally many TICKs end in equal banks,
whatever their lengths, scanner states, parameters and the places of their ticks. -/
def Obligations.BankDependsOnTicksAlone : Prop :=
  ∀ (m n : Nat) (s u : State), s.cnt = u.cnt → NoReset m s → NoReset n u → ticksIn m s = ticksIn n u →
    (after m s).cnt = (after n u).cnt

/-! ### The micro-operations -/

/-- R110, R111: FETCH samples the whole counter of the block, from before a TICK of the same edge; BLANK darkens the segments. -/
def Obligations.FetchAndBlankResults : Prop :=
  (∀ s : State, ∃ v : Dec, v.toNat = [s.cnt.c0.toNat, s.cnt.c1.toNat, s.cnt.c2.toNat, s.cnt.c3.toNat].getD s.blk.toNat 0 ∧
    exec .fetch s = .next { s with val := v, dig := 0, ph := 1 } ∧
    (s.rstI = false → s.ph = 0 → ∃ t, step s = .next t ∧ t.val = v)) ∧
  (∀ s : State, exec .blank s = .next { s with segOn := 0b0000000#7, ph := 2 }) ∧
  decodePh 0b000#3 = .fetch ∧ decodePh 0b001#3 = .blank

/-- R112: SELECT makes the select vector one-hot at position 4 blk + dig, and empty for the reserved block 3. -/
def Obligations.SelectMovesTheSelection : Prop :=
  decodePh 0b010#3 = .select ∧ ∀ s : State, ∃ v : Sel, exec .select s = .next { s with selOn := v, ph := 3 } ∧
    (s.blk.toNat ≤ 2 → ∀ k, v.getLsbD k = decide (k = 4 * s.blk.toNat + s.dig.toNat)) ∧
    (s.blk.toNat = 3 → v = 0)

/-- R113: DRIVE lights the pattern of val mod 10 and keeps val div 10, for every value of val. -/
def Obligations.DriveLightsTheNextDigit : Prop :=
  decodePh 0b011#3 = .drive ∧ ∀ s : State, ∃ (d : DigCode) (v : Dec), d.toNat = s.val.toNat % 10 ∧ v.toNat = s.val.toNat / 10 ∧
    exec .drive s = .next { s with segOn := segTable s.cfg d, val := v, ph := 4 }

/-- R114: HOLD counts until SETTLE_CYCLES - 1 and then goes to the next digit, the next block or AUX; reserved values of settle
and blk included. -/
def Obligations.HoldCountsThenAdvances : Prop :=
  decodePh 0b100#3 = .hold ∧ ∀ s : State,
    if s.settle ≥ s.cfg.settleCycles - 1 then
      if s.dig.toNat < 3 then
        ∃ j : Idx, j.toNat = s.dig.toNat + 1 ∧ exec .hold s = .next { s with settle := 0, dig := j, ph := 1 }
      else if s.blk.toNat < 2 then
        ∃ b : Idx, b.toNat = s.blk.toNat + 1 ∧ exec .hold s = .next { s with settle := 0, blk := b, ph := 0 }
      else exec .hold s = .next { s with settle := 0, ph := 5 }
    else exec .hold s = .next { s with settle := s.settle + 1 }

/-- R115, R116: AUX copies the parity of counter 1 and starts the next pass; RECOVER leaves a reserved phase for the start of a
pass, whatever its ignored bit. A TICK of the same edge is not seen by AUX. -/
def Obligations.AuxAndRecoverResults : Prop :=
  (∀ s : State, exec .aux s = .next { s with auxOn := decide (s.cnt.c1.toNat % 2 = 1), blk := 0, ph := 0 }) ∧
  (∀ s : State, s.rstI = false → s.ph = 5 → ∃ t, step s = .next t ∧ t.auxOn = decide (s.cnt.c1.toNat % 2 = 1)) ∧
  (∀ (x : BitVec 1) (s : State), exec (.recover x) s = .next { s with ph := 0, blk := 0, dig := 0, settle := 0 }) ∧
  decodePh 0b101#3 = .aux ∧ decodePh 0b110#3 = .recover 0 ∧ decodePh 0b111#3 = .recover 1

/-- R119: the successor of (ph, blk, dig) at an edge with rst_i = 0, row by row of the rule's table, in the states whose phase
and block are legal or whose phase is reserved. -/
def Obligations.SuccessorOfTheSequencing : Prop :=
  ∀ s : State, s.rstI = false → s.blk.toNat ≤ 2 → ∃ t, step s = .next t ∧
    (s.ph = 0 → t.ph = 1 ∧ t.blk = s.blk ∧ t.dig = 0) ∧
    (s.ph = 1 → t.ph = 2 ∧ t.blk = s.blk ∧ t.dig = s.dig) ∧
    (s.ph = 2 → t.ph = 3 ∧ t.blk = s.blk ∧ t.dig = s.dig) ∧
    (s.ph = 3 → t.ph = 4 ∧ t.blk = s.blk ∧ t.dig = s.dig) ∧
    (s.ph = 4 → s.settle < s.cfg.settleCycles - 1 → t.ph = 4 ∧ t.blk = s.blk ∧ t.dig = s.dig) ∧
    (s.ph = 4 → s.settle ≥ s.cfg.settleCycles - 1 → s.dig.toNat < 3 →
      t.ph = 1 ∧ t.blk = s.blk ∧ t.dig.toNat = s.dig.toNat + 1) ∧
    (s.ph = 4 → s.settle ≥ s.cfg.settleCycles - 1 → s.dig.toNat = 3 → s.blk.toNat < 2 →
      t.ph = 0 ∧ t.blk.toNat = s.blk.toNat + 1 ∧ t.dig = 3) ∧
    (s.ph = 4 → s.settle ≥ s.cfg.settleCycles - 1 → s.dig.toNat = 3 → 2 ≤ s.blk.toNat →
      t.ph = 5 ∧ t.blk = s.blk ∧ t.dig = 3) ∧
    (s.ph = 5 → t.ph = 0 ∧ t.blk = 0 ∧ t.dig = s.dig) ∧
    (6 ≤ s.ph.toNat → t.ph = 0 ∧ t.blk = 0 ∧ t.dig = 0)

/-! ### The Digit Selector and the Segment Encoding Table -/

/-- R100: the rows of SelDecode: the one position 4 b + j for blocks 0 to 2, nothing for the reserved indices. As operations
they write sel_on alone (log entry 7). -/
def Obligations.SelectorRowsSelectOnePosition : Prop :=
  (∀ (j : Idx) (s : State), ∃ v : Sel, exec (.seldecB0 j) s = .next { s with selOn := v } ∧
    ∀ k, v.getLsbD k = decide (k = j.toNat)) ∧
  (∀ (j : Idx) (s : State), ∃ v : Sel, exec (.seldecB1 j) s = .next { s with selOn := v } ∧
    ∀ k, v.getLsbD k = decide (k = 4 + j.toNat)) ∧
  (∀ (j : Idx) (s : State), ∃ v : Sel, exec (.seldecB2 j) s = .next { s with selOn := v } ∧
    ∀ k, v.getLsbD k = decide (k = 8 + j.toNat)) ∧
  (∀ (j : Idx) (s : State), exec (.seldecRsvd j) s = .next { s with selOn := 0x000#12 })

/-- R71, R77, R103, log entry 7: SELECT performs the selector row that the position index {blk, dig} names and then goes to DRIVE; the row
performed twice is the row performed once. -/
def Obligations.SelectPerformsItsSelectorRow : Prop :=
  ∀ s : State, ∃ t, exec (decodePosx (s.blk ++ s.dig)) s = .next t ∧ exec .select s = .next { t with ph := 3 } ∧
    exec (decodePosx (s.blk ++ s.dig)) t = .next t

/-- R63: the table's rows light their pattern, read {A,B,C,D,E,F,G} from bit 0: 0, 1 and 8 as the source prints them, the seven
others as the build's table has them (the spec's defaults under the default table, log entry 4), the reserved codes nothing. As
operations the rows write seg_on alone (log entry 7). -/
def Obligations.SegmentRowsLightTheirPattern : Prop :=
  (∀ s : State, ∃ v : Seg, exec .seg0 s = .next { s with segOn := v } ∧
    (List.range 7).map v.getLsbD = [true, true, true, true, true, true, false]) ∧
  (∀ s : State, ∃ v : Seg, exec .seg1 s = .next { s with segOn := v } ∧
    (List.range 7).map v.getLsbD = [false, true, true, false, false, false, false]) ∧
  (∀ s : State, ∃ v : Seg, exec .seg8 s = .next { s with segOn := v } ∧
    (List.range 7).map v.getLsbD = [true, true, true, true, true, true, true]) ∧
  (∀ s : State, exec .seg2 s = .next { s with segOn := s.cfg.seg2 } ∧ exec .seg3 s = .next { s with segOn := s.cfg.seg3 } ∧
    exec .seg4 s = .next { s with segOn := s.cfg.seg4 } ∧ exec .seg5 s = .next { s with segOn := s.cfg.seg5 } ∧
    exec .seg6 s = .next { s with segOn := s.cfg.seg6 } ∧ exec .seg7 s = .next { s with segOn := s.cfg.seg7 } ∧
    exec .seg9 s = .next { s with segOn := s.cfg.seg9 }) ∧
  (∀ (n : Nat) (a b : Bool), let c := referenceParams n a b
    c.seg2 = 0x5B ∧ c.seg3 = 0x4F ∧ c.seg4 = 0x66 ∧ c.seg5 = 0x6D ∧ c.seg6 = 0x7D ∧ c.seg7 = 0x07 ∧ c.seg9 = 0x6F) ∧
  (∀ (x : BitVec 1) (s : State), exec (.segRsvdA x) s = .next { s with segOn := 0 }) ∧
  (∀ (x : BitVec 2) (s : State), exec (.segRsvdB x) s = .next { s with segOn := 0 })

/-- R71, R75 (b), log entry 7: DRIVE performs the table row of the digit code val mod 10, which is never a reserved one. -/
def Obligations.DrivePerformsItsTableRow : Prop :=
  ∀ s : State, ∃ (d : DigCode) (t : State) (v : Dec), d.toNat = s.val.toNat % 10 ∧ d.toNat ≤ 9 ∧
    exec (decodeDig d) s = .next t ∧ exec .drive s = .next { t with val := v, ph := 4 } ∧
    (∀ x, decodeDig d ≠ .segRsvdA x) ∧ (∀ x, decodeDig d ≠ .segRsvdB x)

/-! ### The pins -/

/-- R70: the pin level of every line is NOT (s XOR L); in the reference design digit 0 appears as 0x40 and blank as 0x7F. -/
def Obligations.PinLevelsFollowThePolarity : Prop :=
  (∀ (s : State) (k : Nat), k < 7 → s.segO.getLsbD k = !(xor (s.segOn.getLsbD k) s.cfg.segActive)) ∧
  (∀ (s : State) (k : Nat), k < 12 → s.selO.getLsbD k = !(xor (s.selOn.getLsbD k) s.cfg.selActive)) ∧
  (∀ s : State, s.auxO = !(xor s.auxOn s.cfg.auxActive)) ∧
  (∀ s : State, s.cfg.segActive = false → (s.segOn = 0x3F → s.segO = 0x40) ∧ (s.segOn = 0 → s.segO = 0x7F))

/-- R17, R94: rearm_o is 1 exactly during the cycles whose closing edge performs a TICK. -/
def Obligations.RearmMarksExactlyTheTicks : Prop :=
  ∀ s : State, (s.rearmO = true ↔ decodeEvt s.evt = .tick) ∧ (s.rearmO = true ↔ s.rstI = false ∧ s.tickI = true)

/-! ### Invariants and whole-machine rules -/

/-- R31, R32: the state after reset meets the invariant, whatever the open parameters of its build are (log entry 3). -/
def Obligations.ResetStateIsLegal : Prop :=
  Inv State.reset ∧ TimerLegal State.reset

/-- R31: every edge keeps the invariant, under any values of tick_i and rst_i. -/
def Obligations.EveryEdgeKeepsTheLegalState : Prop :=
  ∀ s t : State, Inv s → step s = .next t → Inv t

/-- R5, R23: in a legal state the hold counter fits its register of SW = max(1, ceil(log2 SETTLE_CYCLES)) bits: SW is the least
width of at least 1 that holds every count below SETTLE_CYCLES (log entry 6). -/
def Obligations.SettleCountFitsItsRegister : Prop :=
  (∀ s : State, Inv s → s.settle < 2 ^ s.cfg.settleWidth) ∧
  (∀ c : Params, 1 ≤ c.settleCycles → 1 ≤ c.settleWidth ∧
    ∀ w, 1 ≤ w → c.settleCycles ≤ 2 ^ w → c.settleWidth ≤ w)

/-- R31 I8, R102, R170: no edge of the running machine changes the selection while a segment is lit, before or after it. The
rule's sentence covers edges with rst_i = 0 (log entry 10). -/
def Obligations.SelectionChangesOnlyWhileBlank : Prop :=
  ∀ s t : State, Inv s → s.rstI = false → step s = .next t → t.selOn ≠ s.selOn → s.segOn = 0 ∧ t.segOn = 0

/-- R101: at most one position is selected at every instant; none from RESET until the first SELECT, exactly one from then on. -/
def Obligations.AtMostOnePositionSelected : Prop :=
  ∀ s t : State, Inv s → step s = .next t →
    AtMostOne s.selOn ∧ AtMostOne t.selOn ∧ (s.rstI = true → t.selOn = 0) ∧
    (s.rstI = false → s.ph = 2 → ExactlyOne t.selOn) ∧
    (s.rstI = false → s.ph ≠ 2 → t.selOn = s.selOn) ∧
    (s.rstI = false → ExactlyOne s.selOn → ExactlyOne t.selOn)

/-- R5: no operation and no edge changes a build parameter. That an operation leaves the platform's side as well is the model's
choice, no rule of the spec (DESIGN CHOICE, log entry 1): the end of the edge moves it, the timer that a TICK re-arms included. -/
def Obligations.NothingChangesTheBuild : Prop :=
  (∀ (i : Instr) (s t : State), exec i s = .next t → t.cfg = s.cfg ∧ t.plat = s.plat) ∧
  (∀ s t : State, step s = .next t → t.cfg = s.cfg)

/-- R118, R34: which operations can change each register, column by column of the rule's table; the selector and table rows as
operations write sel_on and seg_on (log entry 7). -/
def Obligations.OperationsWriteOnlyTheirRegisters : Prop :=
  ∀ (i : Instr) (s t : State), exec i s = .next t → (∀ x, i ≠ .reset x) →
    (t.cnt ≠ s.cnt → i = .tick) ∧
    (t.val ≠ s.val → i = .fetch ∨ i = .drive) ∧
    (t.ph ≠ s.ph → spaceOf i = .ph) ∧
    (t.blk ≠ s.blk → i = .hold ∨ i = .aux ∨ ∃ x, i = .recover x) ∧
    (t.dig ≠ s.dig → i = .fetch ∨ i = .hold ∨ ∃ x, i = .recover x) ∧
    (t.settle ≠ s.settle → i = .hold ∨ ∃ x, i = .recover x) ∧
    (t.segOn ≠ s.segOn → i = .blank ∨ i = .drive ∨ spaceOf i = .dig) ∧
    (t.selOn ≠ s.selOn → i = .select ∨ spaceOf i = .posx) ∧
    (t.auxOn ≠ s.auxOn → i = .aux)

/-- R117, R148, R181: the sequencing of the scanner is independent of the ticks and of everything else it does not read. -/
def Obligations.SequencingIgnoresTheTicks : Prop :=
  ∀ (n : Nat) (s u : State), s.sequencing = u.sequencing → s.cfg.settleCycles = u.cfg.settleCycles →
    NoReset n s → NoReset n u → (after n s).sequencing = (after n u).sequencing

/-- R26, R127: the indicator takes the parity that counter 1 had at the start of an AUX's cycle, and changes at no other edge
with rst_i = 0, whatever the ticks do. -/
def Obligations.IndicatorChangesOnlyAtAux : Prop :=
  ∀ s : State, s.rstI = false → ∃ t, step s = .next t ∧
    (s.ph = 5 → t.auxOn = decide (s.cnt.c1.toNat % 2 = 1)) ∧ (s.ph ≠ 5 → t.auxOn = s.auxOn)

/-! ### Runs -/

/-- R119, R126, R81: from the start of a pass the scanner performs, in order, FETCH and four times BLANK, SELECT, DRIVE and
SETTLE_CYCLES HOLDs for each of three blocks, then AUX, and is at the start of a pass again after 40 + 12 SETTLE_CYCLES edges. -/
def Obligations.PassIsTheSourcesSequence : Prop :=
  ∀ s : State, 1 ≤ s.cfg.settleCycles → s.ph = 0 → s.blk = 0 → s.settle = 0 →
    NoReset (40 + 12 * s.cfg.settleCycles) s →
    opsIn (40 + 12 * s.cfg.settleCycles) s = passOps s.cfg.settleCycles ∧
    (after (40 + 12 * s.cfg.settleCycles) s).ph = 0 ∧ (after (40 + 12 * s.cfg.settleCycles) s).blk = 0 ∧
    (after (40 + 12 * s.cfg.settleCycles) s).settle = 0

/-- R181, with the exception of log entry 12: from the sequencing state of reset, `ph`, `blk` and `settle` at cycle n are those of
cycle n mod (40 + 12 SETTLE_CYCLES), and `dig` too but at the multiples of that length, where `DigIsThreeAtEveryLaterPassStart`
says what it is. -/
def Obligations.SequencingIsPeriodic : Prop :=
  ∀ (n : Nat) (s : State), 1 ≤ s.cfg.settleCycles → s.sequencing = (0, 0, 0, 0) → NoReset n s →
    let u := after (n % (40 + 12 * s.cfg.settleCycles)) s
    (after n s).ph = u.ph ∧ (after n s).blk = u.blk ∧ (after n s).settle = u.settle ∧
    (n % (40 + 12 * s.cfg.settleCycles) ≠ 0 → (after n s).dig = u.dig)

/-- R114 corner case (d), R119, log entry 12: at the start of every pass after the first, `dig` still is the 3 of the last digit;
the first pass starts with the 0 of reset. -/
def Obligations.DigIsThreeAtEveryLaterPassStart : Prop :=
  ∀ (n : Nat) (s : State), 1 ≤ s.cfg.settleCycles → s.sequencing = (0, 0, 0, 0) → NoReset n s →
    n % (40 + 12 * s.cfg.settleCycles) = 0 →
    (n = 0 → (after n s).sequencing = (0, 0, 0, 0)) ∧ (n ≠ 0 → (after n s).sequencing = (0, 0, 3, 0))

/-- R181: from the sequencing state of reset, `sel_on` at cycle n of at least 3 is a function of n alone: the same in every run
with the same SETTLE_CYCLES, whatever was selected before, and whatever the banks, the ticks and the other parameters are. -/
def Obligations.SelectionIsAFunctionOfTheCycle : Prop :=
  ∀ (n : Nat) (s u : State), s.sequencing = (0, 0, 0, 0) → u.sequencing = (0, 0, 0, 0) →
    s.cfg.settleCycles = u.cfg.settleCycles → NoReset n s → NoReset n u → 3 ≤ n → (after n s).selOn = (after n u).selOn

/-- R121, R122, R124: a block started by a FETCH shows, for each digit, a blank before and after the selection moves, and then
the pair of `render_block(b, v)` for the whole hold, v being the sample of the FETCH whatever ticks arrive. -/
def Obligations.BlockShowsTheSampledDigits : Prop :=
  ∀ s : State, 1 ≤ s.cfg.settleCycles → s.ph = 0 → s.blk.toNat ≤ 2 → s.settle = 0 →
    NoReset (blockCycles s.cfg.settleCycles) s → ∀ j : Idx,
    let v := s.cnt.get s.blk
    let e := 1 + j.toNat * digitCycles s.cfg.settleCycles
    (after (e + 1) s).segOn = 0 ∧ (after (e + 2) s).segOn = 0 ∧
    (after (e + 2) s).selOn = (renderPair s.cfg s.blk v j).1 ∧
    (after (e + 3) s).val.toNat = v.toNat / 10 ^ (j.toNat + 1) ∧
    ∀ k, k < s.cfg.settleCycles →
      (after (e + 3 + k) s).ph = 4 ∧
      (renderBlock s.cfg s.blk v)[j.toNat]? = some ((after (e + 3 + k) s).selOn, (after (e + 3 + k) s).segOn)

/-- R125: what a block shows depends on the block and the sampled value alone: not on the rest of the bank, the ticks, or what
was shown before. -/
def Obligations.RenderIsPureInItsOperands : Prop :=
  ∀ s u : State, s.cfg = u.cfg → 1 ≤ s.cfg.settleCycles → s.ph = 0 → u.ph = 0 → s.settle = 0 → u.settle = 0 →
    s.blk = u.blk → s.blk.toNat ≤ 2 → s.cnt.get s.blk = u.cnt.get u.blk →
    NoReset (blockCycles s.cfg.settleCycles) s → NoReset (blockCycles s.cfg.settleCycles) u →
    ∀ k, 3 ≤ k → k ≤ blockCycles s.cfg.settleCycles →
      (after k s).segOn = (after k u).segOn ∧ (after k s).selOn = (after k u).selOn

/-- R52, R147, 00_scope section 6: every run of edges with rst_i = 0 is a run of the operation level, the atomic operations of
each edge in turn. -/
def Obligations.CycleLevelRefinesOperationLevel : Prop :=
  ∀ (n : Nat) (s : State), NoReset n s → ∃ t, opRun (eventsIn n s) s = .next t ∧
    after n s = { t with plat := (after n s).plat }

/-- R176, R127: within one pass every displayed counter is sampled and the indicator is driven, whatever the ticks do. -/
def Obligations.EveryBlockIsSampledWithinOnePass : Prop :=
  ∀ s : State, Inv s → NoReset (passCycles s.cfg.settleCycles) s →
    (∀ b : Idx, b.toNat ≤ 2 → ∃ k, k < passCycles s.cfg.settleCycles ∧ (after k s).ph = 0 ∧ (after k s).blk = b) ∧
    (∃ k, k < passCycles s.cfg.settleCycles ∧ (after k s).ph = 5)

/-- R161: the first pass after reset: nothing is selected before cycle 3, position 0 from then, its digit 0 lit from cycle 4,
whatever ticks arrive, and AUX is due in cycle 39 + 12 SETTLE_CYCLES. -/
def Obligations.FirstPassAfterReset : Prop :=
  ∀ s : State, s = s.toReset → 1 ≤ s.cfg.settleCycles → NoReset (39 + 12 * s.cfg.settleCycles) s →
    (∀ k, k ≤ 2 → (after k s).selOn = 0x000#12) ∧ (after 3 s).selOn = 0x001#12 ∧ (after 3 s).segOn = 0x00#7 ∧
    (after 4 s).selOn = 0x001#12 ∧ (after 4 s).segOn = 0x3F#7 ∧ (after (39 + 12 * s.cfg.settleCycles) s).ph = 5

/-! ### The companion timer -/

/-- R152, log entry 9: an attached timer that starts cleared presents tick_i = 1 in cycle TICK_PERIOD - 1 and every TICK_PERIOD cycles after
that, for one cycle each time. -/
def Obligations.CompanionTimerTicksEveryPeriod : Prop :=
  ∀ (n period : Nat) (s : State), 1 ≤ period → s.plat.timer = some { period := period, tmr := 0 } → NoReset n s →
    ∀ k, k < n → (after k s).tickI = decide (k % period = period - 1)

/-- R152, log entry 9: every edge keeps an attached timer in its range and its period unchanged, and RESET clears it. -/
def Obligations.CompanionTimerStaysInRange : Prop :=
  ∀ s t : State, TimerLegal s → step s = .next t → TimerLegal t ∧
    (∀ x, s.plat.timer = some x → ∃ y, t.plat.timer = some y ∧ y.period = x.period ∧ (s.rstI = true → y.tmr = 0))
end

