-- ==== Sys2Proof/Laws/State.lean ====
section
/-! SUPPORT. What each named write of a register does to each field of the state. -/

namespace Sys2Proof.Machine

@[simp] theorem State.setBank_cnt (s : State) (b : Bank) : (s.setBank b).cnt = b := rfl
@[simp] theorem State.setBank_val (s : State) (b : Bank) : (s.setBank b).val = s.val := rfl
@[simp] theorem State.setBank_ph (s : State) (b : Bank) : (s.setBank b).ph = s.ph := rfl
@[simp] theorem State.setBank_blk (s : State) (b : Bank) : (s.setBank b).blk = s.blk := rfl
@[simp] theorem State.setBank_dig (s : State) (b : Bank) : (s.setBank b).dig = s.dig := rfl
@[simp] theorem State.setBank_settle (s : State) (b : Bank) : (s.setBank b).settle = s.settle := rfl
@[simp] theorem State.setBank_segOn (s : State) (b : Bank) : (s.setBank b).segOn = s.segOn := rfl
@[simp] theorem State.setBank_selOn (s : State) (b : Bank) : (s.setBank b).selOn = s.selOn := rfl
@[simp] theorem State.setBank_auxOn (s : State) (b : Bank) : (s.setBank b).auxOn = s.auxOn := rfl
@[simp] theorem State.setBank_cfg (s : State) (b : Bank) : (s.setBank b).cfg = s.cfg := rfl
@[simp] theorem State.setBank_plat (s : State) (b : Bank) : (s.setBank b).plat = s.plat := rfl

@[simp] theorem State.setVal_cnt (s : State) (v : Dec) : (s.setVal v).cnt = s.cnt := rfl
@[simp] theorem State.setVal_val (s : State) (v : Dec) : (s.setVal v).val = v := rfl
@[simp] theorem State.setVal_ph (s : State) (v : Dec) : (s.setVal v).ph = s.ph := rfl
@[simp] theorem State.setVal_blk (s : State) (v : Dec) : (s.setVal v).blk = s.blk := rfl
@[simp] theorem State.setVal_dig (s : State) (v : Dec) : (s.setVal v).dig = s.dig := rfl
@[simp] theorem State.setVal_settle (s : State) (v : Dec) : (s.setVal v).settle = s.settle := rfl
@[simp] theorem State.setVal_segOn (s : State) (v : Dec) : (s.setVal v).segOn = s.segOn := rfl
@[simp] theorem State.setVal_selOn (s : State) (v : Dec) : (s.setVal v).selOn = s.selOn := rfl
@[simp] theorem State.setVal_auxOn (s : State) (v : Dec) : (s.setVal v).auxOn = s.auxOn := rfl
@[simp] theorem State.setVal_cfg (s : State) (v : Dec) : (s.setVal v).cfg = s.cfg := rfl
@[simp] theorem State.setVal_plat (s : State) (v : Dec) : (s.setVal v).plat = s.plat := rfl

@[simp] theorem State.setPh_cnt (s : State) (p : PhCode) : (s.setPh p).cnt = s.cnt := rfl
@[simp] theorem State.setPh_val (s : State) (p : PhCode) : (s.setPh p).val = s.val := rfl
@[simp] theorem State.setPh_ph (s : State) (p : PhCode) : (s.setPh p).ph = p := rfl
@[simp] theorem State.setPh_blk (s : State) (p : PhCode) : (s.setPh p).blk = s.blk := rfl
@[simp] theorem State.setPh_dig (s : State) (p : PhCode) : (s.setPh p).dig = s.dig := rfl
@[simp] theorem State.setPh_settle (s : State) (p : PhCode) : (s.setPh p).settle = s.settle := rfl
@[simp] theorem State.setPh_segOn (s : State) (p : PhCode) : (s.setPh p).segOn = s.segOn := rfl
@[simp] theorem State.setPh_selOn (s : State) (p : PhCode) : (s.setPh p).selOn = s.selOn := rfl
@[simp] theorem State.setPh_auxOn (s : State) (p : PhCode) : (s.setPh p).auxOn = s.auxOn := rfl
@[simp] theorem State.setPh_cfg (s : State) (p : PhCode) : (s.setPh p).cfg = s.cfg := rfl
@[simp] theorem State.setPh_plat (s : State) (p : PhCode) : (s.setPh p).plat = s.plat := rfl

@[simp] theorem State.setBlk_cnt (s : State) (b : Idx) : (s.setBlk b).cnt = s.cnt := rfl
@[simp] theorem State.setBlk_val (s : State) (b : Idx) : (s.setBlk b).val = s.val := rfl
@[simp] theorem State.setBlk_ph (s : State) (b : Idx) : (s.setBlk b).ph = s.ph := rfl
@[simp] theorem State.setBlk_blk (s : State) (b : Idx) : (s.setBlk b).blk = b := rfl
@[simp] theorem State.setBlk_dig (s : State) (b : Idx) : (s.setBlk b).dig = s.dig := rfl
@[simp] theorem State.setBlk_settle (s : State) (b : Idx) : (s.setBlk b).settle = s.settle := rfl
@[simp] theorem State.setBlk_segOn (s : State) (b : Idx) : (s.setBlk b).segOn = s.segOn := rfl
@[simp] theorem State.setBlk_selOn (s : State) (b : Idx) : (s.setBlk b).selOn = s.selOn := rfl
@[simp] theorem State.setBlk_auxOn (s : State) (b : Idx) : (s.setBlk b).auxOn = s.auxOn := rfl
@[simp] theorem State.setBlk_cfg (s : State) (b : Idx) : (s.setBlk b).cfg = s.cfg := rfl
@[simp] theorem State.setBlk_plat (s : State) (b : Idx) : (s.setBlk b).plat = s.plat := rfl

@[simp] theorem State.setDig_cnt (s : State) (j : Idx) : (s.setDig j).cnt = s.cnt := rfl
@[simp] theorem State.setDig_val (s : State) (j : Idx) : (s.setDig j).val = s.val := rfl
@[simp] theorem State.setDig_ph (s : State) (j : Idx) : (s.setDig j).ph = s.ph := rfl
@[simp] theorem State.setDig_blk (s : State) (j : Idx) : (s.setDig j).blk = s.blk := rfl
@[simp] theorem State.setDig_dig (s : State) (j : Idx) : (s.setDig j).dig = j := rfl
@[simp] theorem State.setDig_settle (s : State) (j : Idx) : (s.setDig j).settle = s.settle := rfl
@[simp] theorem State.setDig_segOn (s : State) (j : Idx) : (s.setDig j).segOn = s.segOn := rfl
@[simp] theorem State.setDig_selOn (s : State) (j : Idx) : (s.setDig j).selOn = s.selOn := rfl
@[simp] theorem State.setDig_auxOn (s : State) (j : Idx) : (s.setDig j).auxOn = s.auxOn := rfl
@[simp] theorem State.setDig_cfg (s : State) (j : Idx) : (s.setDig j).cfg = s.cfg := rfl
@[simp] theorem State.setDig_plat (s : State) (j : Idx) : (s.setDig j).plat = s.plat := rfl

@[simp] theorem State.setSettle_cnt (s : State) (n : Nat) : (s.setSettle n).cnt = s.cnt := rfl
@[simp] theorem State.setSettle_val (s : State) (n : Nat) : (s.setSettle n).val = s.val := rfl
@[simp] theorem State.setSettle_ph (s : State) (n : Nat) : (s.setSettle n).ph = s.ph := rfl
@[simp] theorem State.setSettle_blk (s : State) (n : Nat) : (s.setSettle n).blk = s.blk := rfl
@[simp] theorem State.setSettle_dig (s : State) (n : Nat) : (s.setSettle n).dig = s.dig := rfl
@[simp] theorem State.setSettle_settle (s : State) (n : Nat) : (s.setSettle n).settle = n := rfl
@[simp] theorem State.setSettle_segOn (s : State) (n : Nat) : (s.setSettle n).segOn = s.segOn := rfl
@[simp] theorem State.setSettle_selOn (s : State) (n : Nat) : (s.setSettle n).selOn = s.selOn := rfl
@[simp] theorem State.setSettle_auxOn (s : State) (n : Nat) : (s.setSettle n).auxOn = s.auxOn := rfl
@[simp] theorem State.setSettle_cfg (s : State) (n : Nat) : (s.setSettle n).cfg = s.cfg := rfl
@[simp] theorem State.setSettle_plat (s : State) (n : Nat) : (s.setSettle n).plat = s.plat := rfl

@[simp] theorem State.setSegOn_cnt (s : State) (v : Seg) : (s.setSegOn v).cnt = s.cnt := rfl
@[simp] theorem State.setSegOn_val (s : State) (v : Seg) : (s.setSegOn v).val = s.val := rfl
@[simp] theorem State.setSegOn_ph (s : State) (v : Seg) : (s.setSegOn v).ph = s.ph := rfl
@[simp] theorem State.setSegOn_blk (s : State) (v : Seg) : (s.setSegOn v).blk = s.blk := rfl
@[simp] theorem State.setSegOn_dig (s : State) (v : Seg) : (s.setSegOn v).dig = s.dig := rfl
@[simp] theorem State.setSegOn_settle (s : State) (v : Seg) : (s.setSegOn v).settle = s.settle := rfl
@[simp] theorem State.setSegOn_segOn (s : State) (v : Seg) : (s.setSegOn v).segOn = v := rfl
@[simp] theorem State.setSegOn_selOn (s : State) (v : Seg) : (s.setSegOn v).selOn = s.selOn := rfl
@[simp] theorem State.setSegOn_auxOn (s : State) (v : Seg) : (s.setSegOn v).auxOn = s.auxOn := rfl
@[simp] theorem State.setSegOn_cfg (s : State) (v : Seg) : (s.setSegOn v).cfg = s.cfg := rfl
@[simp] theorem State.setSegOn_plat (s : State) (v : Seg) : (s.setSegOn v).plat = s.plat := rfl

@[simp] theorem State.setSelOn_cnt (s : State) (v : Sel) : (s.setSelOn v).cnt = s.cnt := rfl
@[simp] theorem State.setSelOn_val (s : State) (v : Sel) : (s.setSelOn v).val = s.val := rfl
@[simp] theorem State.setSelOn_ph (s : State) (v : Sel) : (s.setSelOn v).ph = s.ph := rfl
@[simp] theorem State.setSelOn_blk (s : State) (v : Sel) : (s.setSelOn v).blk = s.blk := rfl
@[simp] theorem State.setSelOn_dig (s : State) (v : Sel) : (s.setSelOn v).dig = s.dig := rfl
@[simp] theorem State.setSelOn_settle (s : State) (v : Sel) : (s.setSelOn v).settle = s.settle := rfl
@[simp] theorem State.setSelOn_segOn (s : State) (v : Sel) : (s.setSelOn v).segOn = s.segOn := rfl
@[simp] theorem State.setSelOn_selOn (s : State) (v : Sel) : (s.setSelOn v).selOn = v := rfl
@[simp] theorem State.setSelOn_auxOn (s : State) (v : Sel) : (s.setSelOn v).auxOn = s.auxOn := rfl
@[simp] theorem State.setSelOn_cfg (s : State) (v : Sel) : (s.setSelOn v).cfg = s.cfg := rfl
@[simp] theorem State.setSelOn_plat (s : State) (v : Sel) : (s.setSelOn v).plat = s.plat := rfl

@[simp] theorem State.setAuxOn_cnt (s : State) (a : Bool) : (s.setAuxOn a).cnt = s.cnt := rfl
@[simp] theorem State.setAuxOn_val (s : State) (a : Bool) : (s.setAuxOn a).val = s.val := rfl
@[simp] theorem State.setAuxOn_ph (s : State) (a : Bool) : (s.setAuxOn a).ph = s.ph := rfl
@[simp] theorem State.setAuxOn_blk (s : State) (a : Bool) : (s.setAuxOn a).blk = s.blk := rfl
@[simp] theorem State.setAuxOn_dig (s : State) (a : Bool) : (s.setAuxOn a).dig = s.dig := rfl
@[simp] theorem State.setAuxOn_settle (s : State) (a : Bool) : (s.setAuxOn a).settle = s.settle := rfl
@[simp] theorem State.setAuxOn_segOn (s : State) (a : Bool) : (s.setAuxOn a).segOn = s.segOn := rfl
@[simp] theorem State.setAuxOn_selOn (s : State) (a : Bool) : (s.setAuxOn a).selOn = s.selOn := rfl
@[simp] theorem State.setAuxOn_auxOn (s : State) (a : Bool) : (s.setAuxOn a).auxOn = a := rfl
@[simp] theorem State.setAuxOn_cfg (s : State) (a : Bool) : (s.setAuxOn a).cfg = s.cfg := rfl
@[simp] theorem State.setAuxOn_plat (s : State) (a : Bool) : (s.setAuxOn a).plat = s.plat := rfl

@[simp] theorem State.toReset_cnt (s : State) : s.toReset.cnt = State.reset.cnt := rfl
@[simp] theorem State.toReset_val (s : State) : s.toReset.val = State.reset.val := rfl
@[simp] theorem State.toReset_ph (s : State) : s.toReset.ph = State.reset.ph := rfl
@[simp] theorem State.toReset_blk (s : State) : s.toReset.blk = State.reset.blk := rfl
@[simp] theorem State.toReset_dig (s : State) : s.toReset.dig = State.reset.dig := rfl
@[simp] theorem State.toReset_settle (s : State) : s.toReset.settle = State.reset.settle := rfl
@[simp] theorem State.toReset_segOn (s : State) : s.toReset.segOn = State.reset.segOn := rfl
@[simp] theorem State.toReset_selOn (s : State) : s.toReset.selOn = State.reset.selOn := rfl
@[simp] theorem State.toReset_auxOn (s : State) : s.toReset.auxOn = State.reset.auxOn := rfl
@[simp] theorem State.toReset_cfg (s : State) : s.toReset.cfg = s.cfg := rfl
@[simp] theorem State.toReset_plat (s : State) : s.toReset.plat = s.plat := rfl

@[simp] theorem State.reset_cnt : State.reset.cnt = Bank.zero := rfl
@[simp] theorem State.reset_val : State.reset.val = 0 := rfl
@[simp] theorem State.reset_ph : State.reset.ph = 0 := rfl
@[simp] theorem State.reset_blk : State.reset.blk = 0 := rfl
@[simp] theorem State.reset_dig : State.reset.dig = 0 := rfl
@[simp] theorem State.reset_settle : State.reset.settle = 0 := rfl
@[simp] theorem State.reset_segOn : State.reset.segOn = 0 := rfl
@[simp] theorem State.reset_selOn : State.reset.selOn = 0 := rfl
@[simp] theorem State.reset_auxOn : State.reset.auxOn = false := rfl

@[simp] theorem State.closeEdge_cnt (s t : State) : (s.closeEdge t).cnt = t.cnt := rfl
@[simp] theorem State.closeEdge_val (s t : State) : (s.closeEdge t).val = t.val := rfl
@[simp] theorem State.closeEdge_ph (s t : State) : (s.closeEdge t).ph = t.ph := rfl
@[simp] theorem State.closeEdge_blk (s t : State) : (s.closeEdge t).blk = t.blk := rfl
@[simp] theorem State.closeEdge_dig (s t : State) : (s.closeEdge t).dig = t.dig := rfl
@[simp] theorem State.closeEdge_settle (s t : State) : (s.closeEdge t).settle = t.settle := rfl
@[simp] theorem State.closeEdge_segOn (s t : State) : (s.closeEdge t).segOn = t.segOn := rfl
@[simp] theorem State.closeEdge_selOn (s t : State) : (s.closeEdge t).selOn = t.selOn := rfl
@[simp] theorem State.closeEdge_auxOn (s t : State) : (s.closeEdge t).auxOn = t.auxOn := rfl
@[simp] theorem State.closeEdge_cfg (s t : State) : (s.closeEdge t).cfg = t.cfg := rfl
@[simp] theorem State.closeEdge_plat (s t : State) : (s.closeEdge t).plat = s.nextPlat := rfl

@[simp] theorem joinRegs_cnt (b m : State) : (joinRegs b m).cnt = b.cnt := rfl
@[simp] theorem joinRegs_val (b m : State) : (joinRegs b m).val = m.val := rfl
@[simp] theorem joinRegs_ph (b m : State) : (joinRegs b m).ph = m.ph := rfl
@[simp] theorem joinRegs_blk (b m : State) : (joinRegs b m).blk = m.blk := rfl
@[simp] theorem joinRegs_dig (b m : State) : (joinRegs b m).dig = m.dig := rfl
@[simp] theorem joinRegs_settle (b m : State) : (joinRegs b m).settle = m.settle := rfl
@[simp] theorem joinRegs_segOn (b m : State) : (joinRegs b m).segOn = m.segOn := rfl
@[simp] theorem joinRegs_selOn (b m : State) : (joinRegs b m).selOn = m.selOn := rfl
@[simp] theorem joinRegs_auxOn (b m : State) : (joinRegs b m).auxOn = m.auxOn := rfl
@[simp] theorem joinRegs_cfg (b m : State) : (joinRegs b m).cfg = m.cfg := rfl
@[simp] theorem joinRegs_plat (b m : State) : (joinRegs b m).plat = m.plat := rfl

/-- Two states with equal fields are equal. -/
theorem State.eq_of_fields {s t : State} (h1 : s.cnt = t.cnt) (h2 : s.val = t.val) (h3 : s.ph = t.ph) (h4 : s.blk = t.blk)
    (h5 : s.dig = t.dig) (h6 : s.settle = t.settle) (h7 : s.segOn = t.segOn) (h8 : s.selOn = t.selOn) (h9 : s.auxOn = t.auxOn)
    (h10 : s.cfg = t.cfg) (h11 : s.plat = t.plat) : s = t := by
  cases s
  cases t
  simp_all

end Sys2Proof.Machine
end

