-- ==== Sys2Proof/Laws/Ops.lean ====
section
/-! SUPPORT. One lemma for each shared operation that says what it can do. -/

namespace Sys2Proof.Machine

/-- One counter of a TICK: 0 and a carry when the carry takes it past COUNTER_MAX, else the exact sum and none. -/
theorem tickCounter_cases (c : Bool) (v : Dec) :
    (c = true ∧ v.toNat + 1 > Config.counterMax ∧ tickCounter c v = (0, true)) ∨
      (¬(c = true ∧ v.toNat + 1 > Config.counterMax) ∧ tickCounter c v = (BitVec.ofNat 14 (v.toNat + c.toNat), false)) := by
  cases c
  · right; simp [tickCounter]
  · by_cases h : v.toNat + 1 > Config.counterMax
    · left; exact ⟨rfl, h, by simp [tickCounter, h]⟩
    · right; exact ⟨fun hh => h hh.2, by simp [tickCounter, h]⟩

/-- A counter that does not wrap holds the exact sum: nothing is truncated. -/
theorem tickCounter_toNat (c : Bool) (v : Dec) (h : ¬(c = true ∧ v.toNat + 1 > Config.counterMax)) :
    (tickCounter c v).1.toNat = v.toNat + c.toNat ∧ (tickCounter c v).2 = false := by
  obtain ⟨hc, hv, -⟩ | ⟨-, e⟩ := tickCounter_cases c v
  · exact absurd ⟨hc, hv⟩ h
  · rw [e]
    refine ⟨?_, rfl⟩
    rw [BitVec.toNat_ofNat]
    apply Nat.mod_eq_of_lt
    have := v.isLt
    cases c
    · simpa using this
    · simp only [Config.counterMax, true_and, not_lt, gt_iff_lt] at h
      simp only [Bool.toNat_true]
      omega

/-- A counter that wraps holds 0 and carries. -/
theorem tickCounter_wraps (c : Bool) (v : Dec) (h : c = true ∧ v.toNat + 1 > Config.counterMax) :
    (tickCounter c v).1.toNat = 0 ∧ (tickCounter c v).2 = true := by
  obtain ⟨-, -, e⟩ | ⟨hn, -⟩ := tickCounter_cases c v
  · rw [e]; exact ⟨rfl, rfl⟩
  · exact absurd h hn

/-- The selected value has exactly the bit of its position, and none for a reserved index. -/
theorem selDecode_bit (p : Posx) (k : Nat) : (selDecode p).getLsbD k = decide (k = p.toNat ∧ p.toNat ≤ 11) := by
  unfold selDecode
  split
  · rename_i h
    rw [BitVec.getLsbD_ofNat, Nat.testBit_two_pow]
    have : p.toNat ≤ 11 := h
    by_cases e : k = p.toNat
    · subst e; simp [h]; omega
    · simp [e]; omega
  · rename_i h
    simp [h]

/-- Pos(b, j) = 4 b + j as a number (R66). -/
theorem pos_toNat (b j : Idx) : (pos b j).toNat = 4 * b.toNat + j.toNat := by
  revert b j
  decide

/-- The digit code of DRIVE is a decimal digit. -/
theorem digitOf_toNat (v : Dec) : (digitOf v).toNat = v.toNat % 10 := by
  rw [digitOf, BitVec.toNat_ofNat]
  exact Nat.mod_eq_of_lt (by have := Nat.mod_lt v.toNat (by decide : 10 > 0); omega)

/-- The quotient of DRIVE is exact. -/
theorem quotient_toNat (v : Dec) : (quotient v).toNat = v.toNat / 10 := by
  rw [quotient, BitVec.toNat_ofNat]
  exact Nat.mod_eq_of_lt (lt_of_le_of_lt (Nat.div_le_self _ _) v.isLt)

/-- Bit 0 of a counter is its parity (R115). -/
theorem parity_eq (v : Dec) : parity v = decide (v.toNat % 2 = 1) := by
  rw [parity, BitVec.getLsbD, Nat.testBit_zero]

/-- The pin pair holds the two pins (R68). -/
theorem evt_bits (s : State) : s.evt.getLsbD 1 = s.rstI ∧ s.evt.getLsbD 0 = s.tickI := by
  unfold State.evt
  cases s.rstI <;> cases s.tickI <;> decide

/-- What the pins select (R68). -/
theorem decodeEvt_evt (s : State) :
    decodeEvt s.evt = if s.rstI then .reset (s.evt.extractLsb' 0 1) else if s.tickI then .tick else .notick := by
  unfold decodeEvt
  rw [(evt_bits s).1, (evt_bits s).2]

/-- The four elements of the bank space (R41). -/
theorem Bank.get_zero (b : Bank) : b.get 0 = b.c0 := rfl
theorem Bank.get_one (b : Bank) : b.get 1 = b.c1 := rfl
theorem Bank.get_two (b : Bank) : b.get 2 = b.c2 := rfl
theorem Bank.get_three (b : Bank) : b.get 3 = b.c3 := rfl

/-- A reserved digit code lights nothing (R75 (b)). -/
theorem segTable_reserved {c : Params} {d : DigCode} (h : 10 ≤ d.toNat) : segTable c d = 0 := by
  have e : ∀ k : DigCode, k.toNat < 10 → d ≠ k := fun k hk hd => by rw [hd] at h; omega
  simp only [segTable, if_neg (e 0 (by decide)), if_neg (e 1 (by decide)), if_neg (e 2 (by decide)), if_neg (e 3 (by decide)),
    if_neg (e 4 (by decide)), if_neg (e 5 (by decide)), if_neg (e 6 (by decide)), if_neg (e 7 (by decide)),
    if_neg (e 8 (by decide)), if_neg (e 9 (by decide))]
  rfl

/-- The level of one line of a group is the level of its bit (R70). -/
theorem pinVec_bit {w : Nat} (l : Bool) (v : BitVec w) (k : Nat) (h : k < w) : (pinVec l v).getLsbD k = pinBit l (v.getLsbD k) := by
  cases l
  · simp only [pinVec, pinBit, Bool.false_eq_true, if_false, BitVec.getLsbD_not, decide_eq_true h, Bool.true_and]
    cases v.getLsbD k <;> rfl
  · simp only [pinVec, pinBit, if_true]
    cases v.getLsbD k <;> rfl

/-- A register of the width that R5 and R152 give holds every count below its bound. -/
theorem le_two_pow_counterWidth (n : Nat) : n ≤ 2 ^ Config.counterWidth n := by
  have h := Nat.lt_log2_self (n := n - 1)
  unfold Config.counterWidth
  omega

/-- What an edge does to a timer (R152): it restarts at a RESET and at a re-arm, and otherwise counts on. -/
theorem timerNext_cases (t : Timer) (rst rearm : Bool) :
    ((rst = true ∨ rearm = true) ∧ timerNext t rst rearm = { t with tmr := 0 }) ∨
      (rst = false ∧ rearm = false ∧
        timerNext t rst rearm = { t with tmr := (t.tmr + 1) % 2 ^ Config.counterWidth t.period }) := by
  cases rst <;> cases rearm
  · exact .inr ⟨rfl, rfl, rfl⟩
  · exact .inl ⟨.inr rfl, rfl⟩
  · exact .inl ⟨.inl rfl, rfl⟩
  · exact .inl ⟨.inl rfl, rfl⟩

/-- Two next states of one edge join into one (R147). -/
theorem joinOutcomes_next (b m : State) : joinOutcomes (.next b) (.next m) = .next { m with cnt := b.cnt } := rfl

/-- A placed event is what the pins present, and a timer in its way is taken off (log entry 8). -/
theorem placeEvt_evt (e : Evt) (s : State) : (s.placeEvt e).rstI = e.getLsbD 1 ∧ (s.placeEvt e).tickI = e.getLsbD 0 := ⟨rfl, rfl⟩

end Sys2Proof.Machine
end

