-- ==== Sys2Proof/Laws/PerInstr.lean ====
section
/-! SUPPORT. Statements about every operation as syntax, one lemma per constructor. -/

namespace Sys2Proof.Laws

/-- The code of an operation fits its space: it has no bit above the format's width (R60, R72). -/
def Fits.Statement (i : Instr) : Prop := (encode i).toNat < 2 ^ (spaceOf i).width

theorem Fits.reset (t : BitVec 1) : Fits.Statement (.reset t) := by revert t; unfold Fits.Statement; decide
theorem Fits.tick : Fits.Statement .tick := by unfold Fits.Statement; decide
theorem Fits.notick : Fits.Statement .notick := by unfold Fits.Statement; decide
theorem Fits.fetch : Fits.Statement .fetch := by unfold Fits.Statement; decide
theorem Fits.blank : Fits.Statement .blank := by unfold Fits.Statement; decide
theorem Fits.select : Fits.Statement .select := by unfold Fits.Statement; decide
theorem Fits.drive : Fits.Statement .drive := by unfold Fits.Statement; decide
theorem Fits.hold : Fits.Statement .hold := by unfold Fits.Statement; decide
theorem Fits.aux : Fits.Statement .aux := by unfold Fits.Statement; decide
theorem Fits.recover (x : BitVec 1) : Fits.Statement (.recover x) := by revert x; unfold Fits.Statement; decide
theorem Fits.seldecB0 (j : Idx) : Fits.Statement (.seldecB0 j) := by revert j; unfold Fits.Statement; decide
theorem Fits.seldecB1 (j : Idx) : Fits.Statement (.seldecB1 j) := by revert j; unfold Fits.Statement; decide
theorem Fits.seldecB2 (j : Idx) : Fits.Statement (.seldecB2 j) := by revert j; unfold Fits.Statement; decide
theorem Fits.seldecRsvd (j : Idx) : Fits.Statement (.seldecRsvd j) := by revert j; unfold Fits.Statement; decide
theorem Fits.seg0 : Fits.Statement .seg0 := by unfold Fits.Statement; decide
theorem Fits.seg1 : Fits.Statement .seg1 := by unfold Fits.Statement; decide
theorem Fits.seg2 : Fits.Statement .seg2 := by unfold Fits.Statement; decide
theorem Fits.seg3 : Fits.Statement .seg3 := by unfold Fits.Statement; decide
theorem Fits.seg4 : Fits.Statement .seg4 := by unfold Fits.Statement; decide
theorem Fits.seg5 : Fits.Statement .seg5 := by unfold Fits.Statement; decide
theorem Fits.seg6 : Fits.Statement .seg6 := by unfold Fits.Statement; decide
theorem Fits.seg7 : Fits.Statement .seg7 := by unfold Fits.Statement; decide
theorem Fits.seg8 : Fits.Statement .seg8 := by unfold Fits.Statement; decide
theorem Fits.seg9 : Fits.Statement .seg9 := by unfold Fits.Statement; decide
theorem Fits.segRsvdA (x : BitVec 1) : Fits.Statement (.segRsvdA x) := by revert x; unfold Fits.Statement; decide
theorem Fits.segRsvdB (x : BitVec 2) : Fits.Statement (.segRsvdB x) := by revert x; unfold Fits.Statement; decide

end Sys2Proof.Laws
end

