-- ==== Sys2Proof/Laws/Step.lean ====
section
/-! SUPPORT. What one operation, one edge and a run of edges can do. -/

namespace Sys2Proof.Machine

/-- Every operation answers a next state: no operation of CORE stops (R140). -/
theorem exec_next (i : Instr) (s : State) : ∃ t, exec i s = .next t := by
  cases i <;> exact ⟨_, rfl⟩

/-- No operation touches the build or the platform's side. -/
theorem exec_keeps_cfg_plat {i : Instr} {s t : State} (h : exec i s = .next t) : t.cfg = s.cfg ∧ t.plat = s.plat := by
  cases i <;> cases h <;> try exact ⟨rfl, rfl⟩
  simp only [advancePosition]
  repeat' split
  all_goals exact ⟨rfl, rfl⟩

/-- No micro-operation writes the bank (R34). -/
theorem scan_keeps_bank {p : PhCode} {s t : State} (h : exec (decodePh p) s = .next t) : t.cnt = s.cnt := by
  unfold decodePh at h
  repeat' split at h
  all_goals cases h
  all_goals try rfl
  simp only [advancePosition]
  repeat' split
  all_goals rfl

/-- The bank after the bank operation of an edge with rst_i = 0 (R142). -/
def bankAfter (s : State) : Bank := if s.tickI then tickBank s.cnt else s.cnt

/-- The bank operation of an edge with rst_i = 0. -/
theorem bankOp_next {s : State} (h : s.rstI = false) : exec (decodeEvt s.evt) s = .next (s.setBank (bankAfter s)) := by
  rw [decodeEvt_evt, h]
  unfold bankAfter
  cases s.tickI <;> rfl

/-- An edge with rst_i = 1 performs RESET alone (R71, R160). -/
theorem step_reset {s : State} (h : s.rstI = true) : step s = .next (s.closeEdge s.toReset) := by
  simp only [step, runEdge, h, if_true, decodeEvt_evt]
  rfl

/-- An edge with rst_i = 0 (R71, R147): the micro-operation's registers, the bank operation's bank. -/
theorem step_run {s m : State} (h : s.rstI = false) (hm : exec (decodePh s.ph) s = .next m) :
    step s = .next (s.closeEdge (m.setBank (bankAfter s))) := by
  simp only [step, runEdge, h, Bool.false_eq_true, if_false, runBoth, bankOp_next h, hm, joinOutcomes, mapOutcome]
  rfl

/-- Every edge completes. -/
theorem step_next (s : State) : step s = .next (edgeNext s) := by
  have : ∃ t, step s = .next t := by
    cases h : s.rstI
    · obtain ⟨m, hm⟩ := exec_next (decodePh s.ph) s
      exact ⟨_, step_run h hm⟩
    · exact ⟨_, step_reset h⟩
  obtain ⟨t, ht⟩ := this
  simp only [edgeNext, ht]

theorem step_eq_next {s t : State} (h : step s = .next t) : t = edgeNext s := by
  rw [step_next] at h
  cases h
  rfl

theorem edgeNext_reset {s : State} (h : s.rstI = true) : edgeNext s = s.closeEdge s.toReset := by
  have := step_next s
  rw [step_reset h] at this
  injection this with e
  exact e.symm

theorem edgeNext_run {s m : State} (h : s.rstI = false) (hm : exec (decodePh s.ph) s = .next m) :
    edgeNext s = s.closeEdge (m.setBank (bankAfter s)) := by
  have := step_next s
  rw [step_run h hm] at this
  injection this with e
  exact e.symm

/-- The seven micro-operations of an edge with rst_i = 0, by phase (R117). -/
theorem edgeNext_fetch {s : State} (h : s.rstI = false) (hp : s.ph = 0) :
    edgeNext s = s.closeEdge ((((s.setVal (s.cnt.get s.blk)).setDig 0).setPh 1).setBank (bankAfter s)) :=
  edgeNext_run h (by rw [hp]; rfl)

theorem edgeNext_blank {s : State} (h : s.rstI = false) (hp : s.ph = 1) :
    edgeNext s = s.closeEdge (((s.setSegOn 0).setPh 2).setBank (bankAfter s)) :=
  edgeNext_run h (by rw [hp]; rfl)

theorem edgeNext_select {s : State} (h : s.rstI = false) (hp : s.ph = 2) :
    edgeNext s = s.closeEdge (((loadSel (pos s.blk s.dig) s).setPh 3).setBank (bankAfter s)) :=
  edgeNext_run h (by rw [hp]; rfl)

theorem edgeNext_drive {s : State} (h : s.rstI = false) (hp : s.ph = 3) :
    edgeNext s = s.closeEdge ((((loadSeg (digitOf s.val) s).setVal (quotient s.val)).setPh 4).setBank (bankAfter s)) :=
  edgeNext_run h (by rw [hp]; rfl)

theorem edgeNext_hold {s : State} (h : s.rstI = false) (hp : s.ph = 4) :
    edgeNext s = s.closeEdge
      ((if holdEnds s then advancePosition (s.setSettle 0) else s.setSettle (s.settle + 1)).setBank (bankAfter s)) :=
  edgeNext_run h (by rw [hp]; rfl)

theorem edgeNext_aux {s : State} (h : s.rstI = false) (hp : s.ph = 5) :
    edgeNext s = s.closeEdge ((((s.setAuxOn (parity s.cnt.c1)).setBlk 0).setPh 0).setBank (bankAfter s)) :=
  edgeNext_run h (by rw [hp]; rfl)

/-- The phase of an edge, case by case. -/
theorem phase_cases (p : PhCode) : p = 0 ∨ p = 1 ∨ p = 2 ∨ p = 3 ∨ p = 4 ∨ p = 5 ∨ p = 6 ∨ p = 7 := by
  revert p
  decide

/-- A phase of at most 5 is one of the six that are reached (I3). -/
theorem phase_cases_legal {p : PhCode} (h : p.toNat ≤ 5) : p = 0 ∨ p = 1 ∨ p = 2 ∨ p = 3 ∨ p = 4 ∨ p = 5 := by
  revert p
  decide

/-- The bank after an edge with rst_i = 0 (R142). -/
theorem edgeNext_cnt {s : State} (h : s.rstI = false) : (edgeNext s).cnt = bankAfter s := by
  obtain ⟨m, hm⟩ := exec_next (decodePh s.ph) s
  rw [edgeNext_run h hm]
  rfl

/-- Every edge keeps the build (R5). -/
theorem edgeNext_cfg (s : State) : (edgeNext s).cfg = s.cfg := by
  cases h : s.rstI
  · obtain ⟨m, hm⟩ := exec_next (decodePh s.ph) s
    rw [edgeNext_run h hm]
    exact (exec_keeps_cfg_plat hm).1
  · rw [edgeNext_reset h]
    rfl

/-- Every edge moves the platform's side on. -/
theorem edgeNext_plat (s : State) : (edgeNext s).plat = s.nextPlat := by
  cases h : s.rstI
  · obtain ⟨m, hm⟩ := exec_next (decodePh s.ph) s
    rw [edgeNext_run h hm]
    rfl
  · rw [edgeNext_reset h]
    rfl

theorem after_cfg (n : Nat) (s : State) : (after n s).cfg = s.cfg := by
  induction n generalizing s with
  | zero => rfl
  | succ n ih => rw [after, ih, edgeNext_cfg]

theorem after_add (m n : Nat) (s : State) : after (m + n) s = after n (after m s) := by
  induction m generalizing s with
  | zero => rw [Nat.zero_add]; rfl
  | succ m ih => rw [Nat.succ_add, after, ih]; rfl

theorem after_succ (n : Nat) (s : State) : after (n + 1) s = edgeNext (after n s) := after_add n 1 s

theorem after_stream (n : Nat) (s : State) : (after n s).plat.stream = s.plat.stream.drop n := by
  induction n generalizing s with
  | zero => rfl
  | succ n ih =>
    rw [after, ih, edgeNext_plat]
    show (s.plat.stream.tail).drop n = _
    rw [List.drop_tail]

/-- An input stream whose first `n` codes have rst_i = 0 keeps the next `n` edges free of RESET. -/
theorem noReset_of_stream {n : Nat} {s : State} (h : ∀ k, k < n → ∃ e, s.plat.stream[k]? = some e ∧ e.getLsbD 1 = false) :
    NoReset n s := by
  intro k hk
  obtain ⟨e, he, hb⟩ := h k hk
  have hs := after_stream k s
  have hd : s.plat.stream.drop k = e :: s.plat.stream.drop (k + 1) := by
    obtain ⟨hlt, hg⟩ := List.getElem?_eq_some_iff.mp he
    rw [← hg, List.drop_eq_getElem_cons]
  rw [hd] at hs
  rw [State.rstI, State.offered, hs]
  exact hb

theorem NoReset.head {n : Nat} {s : State} (h : NoReset (n + 1) s) : s.rstI = false := h 0 (Nat.succ_pos n)

theorem NoReset.tail {n : Nat} {s : State} (h : NoReset (n + 1) s) : NoReset n (edgeNext s) :=
  fun k hk => h (k + 1) (Nat.succ_lt_succ hk)

theorem NoReset.mono {m n : Nat} {s : State} (h : NoReset n s) (hmn : m ≤ n) : NoReset m s :=
  fun k hk => h k (lt_of_lt_of_le hk hmn)

theorem NoReset.drop {m n : Nat} {s : State} (h : NoReset (m + n) s) : NoReset n (after m s) := by
  intro k hk
  rw [← after_add]
  exact h (m + k) (Nat.add_lt_add_left hk m)

end Sys2Proof.Machine
end

