-- ==== Sys2Proof/Laws/Run.lean ====
section
/-! SUPPORT. The place of a state in the scan pass: one number that every edge with rst_i = 0 moves on by one. -/

namespace Sys2Proof.Machine

/-- The cycle of the scan pass that a sequencing state stands for (R119, R161): FETCH of block b at b blocks, then the four
digits, AUX last. Meant for the reached phases. -/
def passIndex (s : State) : Nat :=
  let base := s.blk.toNat * blockCycles s.cfg.settleCycles
  let digit := base + 1 + s.dig.toNat * digitCycles s.cfg.settleCycles
  if s.ph = 0 then base
  else if s.ph = 1 then digit
  else if s.ph = 2 then digit + 1
  else if s.ph = 3 then digit + 2
  else if s.ph = 4 then digit + 3 + s.settle
  else 3 * blockCycles s.cfg.settleCycles

/-- The part of the invariant that the sequencing needs (I3 to I6). -/
structure SeqLegal (s : State) : Prop where
  params : 1 ≤ s.cfg.settleCycles
  ph : s.ph.toNat ≤ 5
  blk : s.blk.toNat ≤ 2
  settle : s.settle ≤ s.cfg.settleCycles - 1
  idle : s.ph ≠ 4 → s.settle = 0

/-- The invariant contains what the sequencing needs. -/
theorem Inv.seqLegal {s : State} (h : Inv s) : SeqLegal s :=
  ⟨by simpa [Params.wellFormed] using h.params, h.i3, h.i4, h.i5, h.i6⟩

theorem idx_succ_toNat {j : Idx} (h : j.toNat < 3) : (j + 1).toNat = j.toNat + 1 := by
  revert j
  decide

/-- What the last HOLD cycle of a position does to the sequencing (R114, R119). -/
theorem advancePosition_cases (s : State) :
    (s.dig.toNat < 3 ∧ advancePosition s = (s.setDig (s.dig + 1)).setPh 1) ∨
      (s.dig.toNat = 3 ∧ s.blk.toNat < 2 ∧ advancePosition s = (s.setBlk (s.blk + 1)).setPh 0) ∨
      (s.dig.toNat = 3 ∧ 2 ≤ s.blk.toNat ∧ advancePosition s = s.setPh 5) := by
  have hj := s.dig.isLt
  unfold advancePosition
  split
  · exact .inl ⟨‹_›, rfl⟩
  · split
    · exact .inr (.inl ⟨by omega, ‹_›, rfl⟩)
    · exact .inr (.inr ⟨by omega, by omega, rfl⟩)

/-- The sequencing registers after an edge with rst_i = 0, case by case (R119). -/
theorem edgeNext_seq_cases {s : State} (h : s.rstI = false) (hl : SeqLegal s) :
    let t := edgeNext s
    (s.ph = 0 ∧ t.ph = 1 ∧ t.blk = s.blk ∧ t.dig = 0 ∧ t.settle = s.settle) ∨
    (s.ph = 1 ∧ t.ph = 2 ∧ t.blk = s.blk ∧ t.dig = s.dig ∧ t.settle = s.settle) ∨
    (s.ph = 2 ∧ t.ph = 3 ∧ t.blk = s.blk ∧ t.dig = s.dig ∧ t.settle = s.settle) ∨
    (s.ph = 3 ∧ t.ph = 4 ∧ t.blk = s.blk ∧ t.dig = s.dig ∧ t.settle = s.settle) ∨
    (s.ph = 4 ∧ s.settle < s.cfg.settleCycles - 1 ∧ t.ph = 4 ∧ t.blk = s.blk ∧ t.dig = s.dig ∧ t.settle = s.settle + 1) ∨
    (s.ph = 4 ∧ s.settle = s.cfg.settleCycles - 1 ∧ t.settle = 0 ∧
      ((s.dig.toNat < 3 ∧ t.ph = 1 ∧ t.blk = s.blk ∧ t.dig.toNat = s.dig.toNat + 1) ∨
       (s.dig.toNat = 3 ∧ s.blk.toNat < 2 ∧ t.ph = 0 ∧ t.blk.toNat = s.blk.toNat + 1 ∧ t.dig = s.dig) ∨
       (s.dig.toNat = 3 ∧ s.blk.toNat = 2 ∧ t.ph = 5 ∧ t.blk = s.blk ∧ t.dig = s.dig))) ∨
    (s.ph = 5 ∧ t.ph = 0 ∧ t.blk = 0 ∧ t.dig = s.dig ∧ t.settle = s.settle) := by
  intro t
  have hb := hl.blk
  have hset := hl.settle
  obtain hp | hp | hp | hp | hp | hp := phase_cases_legal hl.ph
  · exact .inl ⟨hp, by simp [t, edgeNext_fetch h hp]⟩
  · exact .inr (.inl ⟨hp, by simp [t, edgeNext_blank h hp]⟩)
  · exact .inr (.inr (.inl ⟨hp, by simp [t, edgeNext_select h hp, loadSel]⟩))
  · exact .inr (.inr (.inr (.inl ⟨hp, by simp [t, edgeNext_drive h hp, loadSeg]⟩)))
  · have e := edgeNext_hold h hp
    by_cases he : holdEnds s = true
    · have hge : s.settle = s.cfg.settleCycles - 1 := by
        have : s.settle ≥ s.cfg.settleCycles - 1 := by simpa [holdEnds] using he
        omega
      rw [if_pos he] at e
      refine .inr (.inr (.inr (.inr (.inr (.inl ⟨hp, hge, ?_⟩)))))
      obtain ⟨hd, ea⟩ | ⟨hd, hb2, ea⟩ | ⟨hd, hb2, ea⟩ := advancePosition_cases (s.setSettle 0)
      · refine ⟨by simp [t, e, ea], .inl ⟨hd, ?_, ?_, ?_⟩⟩
        · simp [t, e, ea]
        · simp [t, e, ea]
        · simp only [t, e, ea]
          exact idx_succ_toNat hd
      · refine ⟨by simp [t, e, ea], .inr (.inl ⟨hd, hb2, ?_, ?_, ?_⟩)⟩
        · simp [t, e, ea]
        · simp only [t, e, ea]
          exact idx_succ_toNat (lt_trans hb2 (by decide))
        · simp [t, e, ea]
      · refine ⟨by simp [t, e, ea], .inr (.inr ⟨hd, ?_, ?_, ?_, ?_⟩)⟩
        · have : 2 ≤ s.blk.toNat := hb2
          omega
        · simp [t, e, ea]
        · simp [t, e, ea]
        · simp [t, e, ea]
    · have hlt : s.settle < s.cfg.settleCycles - 1 := Nat.lt_of_not_le fun hh => he (decide_eq_true hh)
      rw [if_neg he] at e
      exact .inr (.inr (.inr (.inr (.inl ⟨hp, hlt, by simp [t, e, hp]⟩))))
  · exact .inr (.inr (.inr (.inr (.inr (.inr ⟨hp, by simp [t, edgeNext_aux h hp]⟩)))))

/-- An edge with rst_i = 0 keeps the sequencing legal. -/
theorem SeqLegal.edge {s : State} (hl : SeqLegal s) (h : s.rstI = false) : SeqLegal (edgeNext s) := by
  have hcfg := edgeNext_cfg s
  have hp := hl.params
  have hb := hl.blk
  have hi := hl.idle
  have hc := edgeNext_seq_cases h hl
  simp only at hc
  refine ⟨by rw [hcfg]; exact hp, ?_, ?_, ?_, ?_⟩
  all_goals
    rcases hc with ⟨p, q, b, d, e⟩ | ⟨p, q, b, d, e⟩ | ⟨p, q, b, d, e⟩ | ⟨p, q, b, d, e⟩ | ⟨p, l, q, b, d, e⟩ |
      ⟨p, l, e, ⟨dd, q, b, d⟩ | ⟨dd, bb, q, b, d⟩ | ⟨dd, bb, q, b, d⟩⟩ | ⟨p, q, b, d, e⟩
    all_goals simp_all

/-- One edge of the scan pass: the place moves on by one, and from AUX back to the start (R119, R181). -/
theorem passIndex_edge {s : State} (hl : SeqLegal s) (h : s.rstI = false) :
    passIndex (edgeNext s) = if s.ph = 5 then 0 else passIndex s + 1 := by
  have hcfg := edgeNext_cfg s
  have hp := hl.params
  have hi := hl.idle
  have hc := edgeNext_seq_cases h hl
  simp only at hc
  rcases hc with ⟨p, q, b, d, e⟩ | ⟨p, q, b, d, e⟩ | ⟨p, q, b, d, e⟩ | ⟨p, q, b, d, e⟩ | ⟨p, l, q, b, d, e⟩ |
      ⟨p, l, e, ⟨dd, q, b, d⟩ | ⟨dd, bb, q, b, d⟩ | ⟨dd, bb, q, b, d⟩⟩ | ⟨p, q, b, d, e⟩
  · simp [passIndex, hcfg, p, q, b, d]
  · simp [passIndex, hcfg, p, q, b, d]
  · simp [passIndex, hcfg, p, q, b, d]
  · have := hi (by rw [p]; decide)
    simp [passIndex, hcfg, p, q, b, d, e, this]
  · simp [passIndex, hcfg, p, q, b, d, e]; omega
  · simp only [passIndex, hcfg, p, q, b, d, l]
    simp [digitCycles]
    ring_nf
    omega
  · simp only [passIndex, hcfg, p, q, b, d, l, dd]
    simp [blockCycles, digitCycles]
    ring_nf
    omega
  · simp only [passIndex, hcfg, p, q, b, d, l, dd, bb]
    simp [blockCycles, digitCycles]
    omega
  · simp [passIndex, p, q, b]

/-- What the place in the pass says of the sequencing, phase by phase, for a legal state. -/
theorem passIndex_phase (s : State) :
    (s.ph = 0 → passIndex s = s.blk.toNat * blockCycles s.cfg.settleCycles) ∧
    (s.ph = 5 → passIndex s = 3 * blockCycles s.cfg.settleCycles) := by
  constructor <;> intro h <;> simp [passIndex, h]

/-- A legal state is inside the pass, and at its last place exactly when AUX is due. -/
theorem passIndex_lt {s : State} (hl : SeqLegal s) :
    passIndex s < passCycles s.cfg.settleCycles ∧ (passIndex s = 3 * blockCycles s.cfg.settleCycles ↔ s.ph = 5) := by
  have hp := hl.params
  have hb := hl.blk
  have hj := s.dig.isLt
  have hs := hl.settle
  have hS : s.settle + 1 ≤ s.cfg.settleCycles := by omega
  have h1 : s.blk.toNat * blockCycles s.cfg.settleCycles ≤ 2 * blockCycles s.cfg.settleCycles := Nat.mul_le_mul_right _ hb
  have h2 : s.dig.toNat * digitCycles s.cfg.settleCycles ≤ 3 * digitCycles s.cfg.settleCycles :=
    Nat.mul_le_mul_right _ (by omega)
  have h3 : blockCycles s.cfg.settleCycles = 1 + 4 * digitCycles s.cfg.settleCycles := rfl
  have h4 : digitCycles s.cfg.settleCycles = 3 + s.cfg.settleCycles := rfl
  have h5 : passCycles s.cfg.settleCycles = 3 * blockCycles s.cfg.settleCycles + 1 := rfl
  obtain hp | hp | hp | hp | hp | hp := phase_cases_legal hl.ph <;> simp [passIndex, hp] <;> omega

/-- The place in the pass after `n` edges with rst_i = 0 (R181). -/
theorem passIndex_after {n : Nat} {s : State} (hl : SeqLegal s) (h : NoReset n s) :
    SeqLegal (after n s) ∧ passIndex (after n s) = (passIndex s + n) % passCycles s.cfg.settleCycles := by
  induction n generalizing s with
  | zero => exact ⟨hl, (Nat.mod_eq_of_lt (passIndex_lt hl).1).symm⟩
  | succ n ih =>
    obtain ⟨hn, hi⟩ := ih (hl.edge h.head) h.tail
    refine ⟨hn, ?_⟩
    rw [after, hi, edgeNext_cfg, passIndex_edge hl h.head]
    split
    · rename_i hp
      have e := (passIndex_lt hl).2.mpr hp
      have hpc : passCycles s.cfg.settleCycles = passIndex s + 1 := by rw [e]; rfl
      rw [hpc, show passIndex s + (n + 1) = n + (passIndex s + 1) by omega, Nat.add_mod_right, Nat.zero_add]
    · rw [show passIndex s + 1 + n = passIndex s + (n + 1) by omega]

end Sys2Proof.Machine
end

