-- ==== Sys2Proof/Tests/Slice0.lean ====
section
/-! SUPPORT. Tests on fixed values, each expected result taken from spec/95_test_vectors.md (its id is named) or worked out by
hand from the rule named, and one witness for the hypotheses of each statement. -/

namespace Sys2Proof.Tests

open Sys2Proof.Machine

/-! ### Helpers -/

/-- A bank written as the vectors write it. -/
def bank (a b c d : Nat) : Bank :=
  { c0 := BitVec.ofNat 14 a, c1 := BitVec.ofNat 14 b, c2 := BitVec.ofNat 14 c, c3 := BitVec.ofNat 14 d }

/-- The registers at reset, in the reference build with SETTLE_CYCLES = `S` and the two open levels 1, and an input stream. -/
def start (S : Nat) (stream : List Evt) : State :=
  { State.reset with
    cfg := referenceParams S true true
    plat := { edge := 0, stream := stream, timer := none } }

/-- `start` in the phase `p`, at block `b` and digit `j`. -/
def at3 (S : Nat) (e : Evt) (p : PhCode) (b j : Idx) : State := { start S [e] with ph := p, blk := b, dig := j }

/-- A fact about the next state of an outcome. -/
def nextIs (f : State → Bool) (o : Host.Outcome State Fault Refusal) : Bool :=
  match o with
  | .next t => f t
  | .fault _ => false
  | .refused _ => false

/-- An outcome is the next state `u`, whole. -/
def becomes (o : Host.Outcome State Fault Refusal) (u : State) : Bool := nextIs (fun t => t == u) o

/-! ### Ill-formed terms are refused -/

theorem test_refuses_event_as_phase : Instr.wellFormedIn .ph .tick = false := by decide
theorem test_refuses_phase_as_event : Instr.wellFormedIn .evt .fetch = false := by decide
theorem test_refuses_digit_as_position : Instr.wellFormedIn .posx .seg0 = false := by decide
theorem test_refuses_position_as_digit : Instr.wellFormedIn .dig (.seldecB0 1) = false := by decide
theorem test_accepts_own_space : Instr.wellFormedIn .posx (.seldecB0 1) = true := by decide
theorem test_refuses_no_settle_cycle : (referenceParams 0 true true).wellFormed = false := by decide
theorem test_refuses_no_period : ({ period := 0, tmr := 0 } : Timer).wellFormed = false := by decide
theorem test_refuses_late_count : ({ period := 5, tmr := 5 } : Timer).wellFormed = false := by decide
theorem test_accepts_last_count : ({ period := 5, tmr := 4 } : Timer).wellFormed = true := by decide

/-! ### Words written out from the encoding column (R63, R67, R68, R100), one for every operation -/

theorem test_decode_events :
    decode .evt 0b00000010#8 = .ok (.reset 0) ∧ decode .evt 0b00000011#8 = .ok (.reset 1) ∧
    decode .evt 0b00000001#8 = .ok .tick ∧ decode .evt 0b00000000#8 = .ok .notick := by decide

theorem test_decode_phases :
    decode .ph 0b00000000#8 = .ok .fetch ∧ decode .ph 0b00000001#8 = .ok .blank ∧
    decode .ph 0b00000010#8 = .ok .select ∧ decode .ph 0b00000011#8 = .ok .drive ∧
    decode .ph 0b00000100#8 = .ok .hold ∧ decode .ph 0b00000101#8 = .ok .aux ∧
    decode .ph 0b00000110#8 = .ok (.recover 0) ∧ decode .ph 0b00000111#8 = .ok (.recover 1) := by decide

theorem test_decode_positions :
    decode .posx 0b00000011#8 = .ok (.seldecB0 3) ∧ decode .posx 0b00000110#8 = .ok (.seldecB1 2) ∧
    decode .posx 0b00001001#8 = .ok (.seldecB2 1) ∧ decode .posx 0b00001100#8 = .ok (.seldecRsvd 0) := by decide

theorem test_decode_digits :
    decode .dig 0b00000000#8 = .ok .seg0 ∧ decode .dig 0b00000001#8 = .ok .seg1 ∧ decode .dig 0b00000010#8 = .ok .seg2 ∧
    decode .dig 0b00000011#8 = .ok .seg3 ∧ decode .dig 0b00000100#8 = .ok .seg4 ∧ decode .dig 0b00000101#8 = .ok .seg5 ∧
    decode .dig 0b00000110#8 = .ok .seg6 ∧ decode .dig 0b00000111#8 = .ok .seg7 ∧ decode .dig 0b00001000#8 = .ok .seg8 ∧
    decode .dig 0b00001001#8 = .ok .seg9 ∧ decode .dig 0b00001011#8 = .ok (.segRsvdA 1) ∧
    decode .dig 0b00001110#8 = .ok (.segRsvdB 2) := by decide

/-- R60: the first code above each width is rejected by name; the last code within it is not. -/
theorem test_decode_rejects_above_format :
    decode .evt 4 = .error (.aboveFormat .evt 4) ∧ decode .ph 8 = .error (.aboveFormat .ph 8) ∧
    decode .posx 16 = .error (.aboveFormat .posx 16) ∧ decode .dig 255 = .error (.aboveFormat .dig 255) ∧
    decode .posx 15 = .ok (.seldecRsvd 3) := by decide

/-- Log entry 8: the table's words at their own widths and in whole bytes. -/
theorem test_table_words :
    decodeTableWord 2 2 = some (.reset 0) ∧ decodeTableWord 3 5 = some .aux ∧ decodeTableWord 4 9 = some .seg9 ∧
    decodeTableWord 8 5 = some .aux ∧ decodeTableWord 8 12 = some (.segRsvdB 0) ∧ decodeTableWord 8 16 = none ∧
    decodeTableWord 16 256 = none := by decide

/-! ### Events -/

/-- E1 and E2: RESET clears a busy state, and ignores its tick_i bit. -/
def busy : State :=
  { start 2 [] with cnt := bank 9999 9999 0 0, ph := 4, blk := 2, dig := 1, val := 99, settle := 1, segOn := 0x6F, selOn := 0x200, auxOn := true }

theorem test_reset_e1 : becomes (exec (.reset 0) busy) (start 2 []) = true := by decide
theorem test_reset_e2 : becomes (exec (.reset 1) busy) (start 2 []) = true := by decide
theorem test_tick_t4 : nextIs (fun t => t.cnt == bank 0 1 0 0) (exec .tick { busy with cnt := bank 9999 0 0 0 }) = true := by decide
theorem test_tick_t12 : nextIs (fun t => t.cnt == bank 0 0 0 0) (exec .tick { busy with cnt := bank 9999 9999 9999 9999 }) = true := by
  decide
/-- T9, T14 and the unreachable TU4: the carry alone wraps a counter. -/
theorem test_tick_carries :
    tickBank (bank 0 9999 9999 0) = bank 1 9999 9999 0 ∧ tickBank (bank 9999 0 9999 0) = bank 0 1 9999 0 ∧
    tickBank (bank 9999 10000 0 0) = bank 0 0 1 0 := by decide
theorem test_notick_t4 : becomes (exec .notick busy) busy = true := by decide

/-- E4: the FETCH of a TICK's edge reads the counter from before the TICK; rearm_o is 1 in that cycle. -/
theorem test_edge_e4 :
    nextIs (fun t => t.cnt == bank 1 0 0 0 && t.val == 0 && t.ph == 1) (step (start 1 [0b01])) = true ∧
    (start 1 [0b01]).rearmO = true ∧ (start 1 [0b11]).rearmO = false := by decide

/-! ### Micro-operations -/

theorem test_fetch_m2 :
    nextIs (fun t => t.val == 7 && t.dig == 0 && t.ph == 1) (exec .fetch { at3 1 0 0 1 3 with cnt := bank 42 7 9999 0 }) = true := by
  decide
/-- M4: a FETCH on the edge of a TICK. -/
theorem test_fetch_m4 :
    nextIs (fun t => t.val == 9999 && t.cnt == bank 0 1 0 0) (step { at3 1 0b01 0 0 3 with cnt := bank 9999 0 0 0 }) = true := by
  decide
theorem test_blank_m6 :
    nextIs (fun t => t.segOn == 0 && t.ph == 2 && t.selOn == 0x001)
      (exec .blank { at3 1 0 1 0 0 with segOn := 0x5B, selOn := 0x001 }) = true := by decide
theorem test_select_m9 :
    nextIs (fun t => t.selOn == 0x040 && t.ph == 3) (exec .select { at3 1 0 2 1 2 with selOn := 0x020 }) = true := by decide
theorem test_select_m11 :
    nextIs (fun t => t.selOn == 0x000 && t.ph == 3) (exec .select { at3 1 0 2 3 0 with selOn := 0x800 }) = true := by decide
theorem test_drive_m16 :
    nextIs (fun t => t.segOn == 0x7F && t.val == 180 && t.ph == 4) (exec .drive { at3 1 0 3 0 0 with val := 1808 }) = true := by
  decide
theorem test_drive_m17 :
    nextIs (fun t => t.segOn == 0x4F && t.val == 1638) (exec .drive { at3 1 0 3 0 0 with val := 16383 }) = true := by decide
theorem test_hold_m22 :
    nextIs (fun t => t.settle == 0 && t.blk == 1 && t.ph == 0 && t.dig == 3)
      (exec .hold { at3 2 0 4 0 3 with settle := 1 }) = true := by decide
/-- M20, M26 and M25: counting on, an unreachable count, and the reserved block. -/
theorem test_hold_m20_m26_m25 :
    nextIs (fun t => t.settle == 2 && t.ph == 4 && t.dig == 2) (exec .hold { at3 3 0 4 1 2 with settle := 1 }) = true ∧
    nextIs (fun t => t.settle == 0 && t.ph == 1 && t.dig == 2) (exec .hold { at3 3 0 4 0 1 with settle := 5 }) = true ∧
    nextIs (fun t => t.settle == 0 && t.ph == 5 && t.blk == 3) (exec .hold { at3 2 0 4 3 3 with settle := 1 }) = true := by
  decide
theorem test_aux_m32 :
    nextIs (fun t => t.auxOn && t.blk == 0 && t.ph == 0) (exec .aux { at3 1 0 5 2 3 with cnt := bank 0 9999 0 0 }) = true := by
  decide
/-- M31: AUX on the edge of a TICK reads the parity from before it. -/
theorem test_aux_m31 :
    nextIs (fun t => t.auxOn && t.cnt == bank 0 2 0 0) (step { at3 1 0b01 5 2 3 with cnt := bank 9999 1 0 0 }) = true := by decide
theorem test_recover_m33 :
    becomes (exec (.recover 0) { at3 2 0 6 1 2 with settle := 1, val := 55, segOn := 0x6D, selOn := 0x020 })
      { at3 2 0 0 0 0 with val := 55, segOn := 0x6D, selOn := 0x020 } = true := by decide
theorem test_recover_m34 :
    becomes (step (at3 1 0 7 2 1)) { at3 1 0 0 0 0 with plat := { edge := 1, stream := [], timer := none } } = true := by decide

/-! ### The selector and the table -/

theorem test_seldec_b0 : becomes (exec (.seldecB0 3) busy) { busy with selOn := 0x008 } = true := by decide
theorem test_seldec_b1 : becomes (exec (.seldecB1 0) busy) { busy with selOn := 0x010 } = true := by decide
theorem test_seldec_b2 : becomes (exec (.seldecB2 3) busy) { busy with selOn := 0x800 } = true := by decide
theorem test_seldec_rsvd : becomes (exec (.seldecRsvd 0) busy) { busy with selOn := 0x000 } = true := by decide
theorem test_seg0 : becomes (exec .seg0 busy) { busy with segOn := 0x3F } = true := by decide
theorem test_seg1 : becomes (exec .seg1 busy) { busy with segOn := 0x06 } = true := by decide
theorem test_seg2 : becomes (exec .seg2 busy) { busy with segOn := 0x5B } = true := by decide
theorem test_seg3 : becomes (exec .seg3 busy) { busy with segOn := 0x4F } = true := by decide
theorem test_seg4 : becomes (exec .seg4 busy) { busy with segOn := 0x66 } = true := by decide
theorem test_seg5 : becomes (exec .seg5 busy) { busy with segOn := 0x6D } = true := by decide
theorem test_seg6 : becomes (exec .seg6 busy) { busy with segOn := 0x7D } = true := by decide
theorem test_seg7 : becomes (exec .seg7 busy) { busy with segOn := 0x07 } = true := by decide
theorem test_seg8 : becomes (exec .seg8 busy) { busy with segOn := 0x7F } = true := by decide
theorem test_seg9 : becomes (exec .seg9 busy) { busy with segOn := 0x6F } = true := by decide
theorem test_seg_rsvd_a : becomes (exec (.segRsvdA 1) busy) { busy with segOn := 0 } = true := by decide
theorem test_seg_rsvd_b : becomes (exec (.segRsvdB 0) busy) { busy with segOn := 0 } = true := by decide

/-! ### Whole edges, pins, contracts -/

/-- P6, cycle 9: a RESET edge while a segment is lit changes the selection. So I8 of R31 speaks of edges with rst_i = 0 (log
entry 10). -/
theorem test_reset_while_lit :
    nextIs (fun t => t.selOn == 0 && t.segOn == 0) (step { at3 2 0b11 4 0 1 with segOn := 0x3F, selOn := 0x002 }) = true := by
  decide

/-- S10 and table SD: digit 0 at the reference level, and position 0 at either select level. -/
theorem test_pins :
    ({ start 1 [] with segOn := 0x3F } : State).segO = 0x40 ∧ (start 1 []).segO = 0x7F ∧
    ({ start 1 [] with selOn := 0x001 } : State).selO = 0x001 ∧
    ({ start 1 [] with selOn := 0x001, cfg := referenceParams 1 false false } : State).selO = 0xFFE ∧
    ({ start 1 [] with cfg := referenceParams 1 false false } : State).auxO = true := by decide

/-- RB1 and RB7. -/
theorem test_render_block :
    renderBlock (referenceParams 1 true true) 0 42 = [(0x001, 0x5B), (0x002, 0x66), (0x004, 0x3F), (0x008, 0x3F)] ∧
    renderBlock (referenceParams 1 true true) 2 1808 = [(0x100, 0x7F), (0x200, 0x3F), (0x400, 0x7F), (0x800, 0x06)] := by decide

/-- Part 2.8 at 1 MHz. -/
theorem test_refresh_floor : RefreshFloor 1000000 1663 ∧ ¬RefreshFloor 1000000 1664 := by
  unfold RefreshFloor
  decide

/-- P5, cycle 4: the timer's last count presents a TICK, re-arms, and restarts at 0. -/
def timed (tmr : Nat) (e : Evt) : State :=
  { start 1 [] with ph := 4, selOn := 1, segOn := 0x3F, plat := { edge := 4, stream := [e], timer := some { period := 5, tmr := tmr } } }

theorem test_timer_p5 :
    (timed 4 0).tickI = true ∧ (timed 4 0).rearmO = true ∧ (timed 3 0).tickI = false ∧
    nextIs (fun t => t.cnt == bank 1 0 0 0 && t.plat.timer == some { period := 5, tmr := 0 }) (step (timed 4 0)) = true ∧
    nextIs (fun t => t.cnt == bank 0 0 0 0 && t.plat.timer == some { period := 5, tmr := 4 }) (step (timed 3 0)) = true := by
  decide

/-- R152: rst_i clears the timer and holds its output at 0. -/
theorem test_timer_reset :
    (timed 4 0b10).tickI = false ∧
    nextIs (fun t => t.plat.timer == some { period := 5, tmr := 0 }) (step (timed 3 0b10)) = true := by decide

/-! ### A word of the table placed at reset is performed by the very next step -/

theorem test_placed_phase :
    nextIs (fun t => t.ph == 3 && t.selOn == 0x001) (step (State.reset.withFetchWord 8 2)) = true ∧
    nextIs (fun t => t.ph == 0 && t.val == 0) (step (State.reset.withFetchWord 8 7)) = true := by decide
theorem test_placed_digit : nextIs (fun t => t.segOn == 0x7F && t.ph == 4) (step (State.reset.withFetchWord 8 8)) = true := by decide
theorem test_placed_event :
    nextIs (fun t => t.cnt == bank 1 0 0 0 && t.ph == 1) (step (State.reset.withFetchWord 2 1)) = true := by decide

/-! ### Witnesses: for each statement with hypotheses, a state and operands that meet all of them, clause by clause -/

/-- An input stream of `n` codes that all have rst_i = 0 keeps `n` edges free of RESET. -/
theorem noReset_replicate {n : Nat} {e : Evt} {s : State} (hs : s.plat.stream = List.replicate n e) (he : e.getLsbD 1 = false) :
    NoReset n s :=
  noReset_of_stream fun k hk => ⟨e, by rw [hs, List.getElem?_replicate, if_pos hk], he⟩

/-- The registers at reset are legal in the reference build. -/
theorem start_inv (S : Nat) (h : 1 ≤ S) (l : List Evt) : Inv (start S l) where
  params := decide_eq_true h
  i1 := ⟨Nat.zero_le _, Nat.zero_le _, Nat.zero_le _, Nat.zero_le _⟩
  i2 := by simp [start, State.reset, Config.counterMax]
  i3 := by simp [start, State.reset]
  i4 := by simp [start, State.reset]
  i5 := Nat.zero_le _
  i6 := fun _ => rfl
  i7 := .inl rfl
  i9 := .inl rfl
  blanked := fun _ => rfl
  shown := fun h => by simp [start, State.reset] at h
  left := fun h => by simp [start, State.reset] at h
  leftHold := fun h => by simp [start, State.reset] at h
  spent := fun _ => rfl

/-- P2, cycle 6: a SELECT is due while position 0 is still selected and the segments are blank. -/
def selecting : State := { start 1 [0b00] with cnt := bank 42 0 0 0, val := 4, ph := 2, dig := 1, selOn := 0x001 }

theorem selecting_inv : Inv selecting where
  params := by decide
  i1 := ⟨by decide, by decide, by decide, by decide⟩
  i2 := by decide
  i3 := by decide
  i4 := by decide
  i5 := by decide
  i6 := by decide
  i7 := .inr ⟨0, by decide⟩
  i9 := .inl rfl
  blanked := fun _ => rfl
  shown := by decide
  left := by decide
  leftHold := by decide
  spent := by decide

theorem witness_EveryCodeIsOneOperation :
    (3#8).toNat < 2 ^ Space.evt.width ∧ (7#8).toNat < 2 ^ Space.ph.width ∧ (15#8).toNat < 2 ^ Space.posx.width ∧
    2 ^ Space.evt.width ≤ (4#8).toNat ∧ 2 ^ Space.ph.width ≤ (8#8).toNat ∧ 2 ^ Space.dig.width ≤ (255#8).toNat := by decide

/-- EdgeRunsTheDecodedOperations, ResetClearsEveryRegister, ResetStepLeavesTheResetState, NotickKeepsTheBank,
TickAdvancesTheBank: rst_i = 1, and rst_i = 0 with either tick_i. -/
theorem witness_events :
    (start 1 [0b10]).rstI = true ∧ (start 1 [0b11]).rstI = true ∧
    (start 1 [0b00]).rstI = false ∧ (start 1 [0b00]).tickI = false ∧
    (start 1 [0b01]).rstI = false ∧ (start 1 [0b01]).tickI = true := by decide

/-- TickedEdgeIsScannerThenTick, with a phase under its second clause and the two that it excepts. -/
theorem witness_TickedEdgeIsScannerThenTick :
    (at3 1 0b01 4 0 0).rstI = false ∧ (at3 1 0b01 4 0 0).tickI = true ∧ (at3 1 0b01 4 0 0).ph ≠ 0 ∧ (at3 1 0b01 4 0 0).ph ≠ 5 ∧
    (at3 1 0b01 5 2 3).rstI = false ∧ (at3 1 0b01 5 2 3).tickI = true ∧
    (at3 1 0b01 5 2 3).ph = 5 ∧ (at3 1 0b01 0 0 3).rstI = false ∧ (at3 1 0b01 0 0 3).tickI = true ∧ (at3 1 0b01 0 0 3).ph = 0 := by
  decide

theorem witness_PinLevels : (start 1 []).cfg.segActive = false ∧ ({ start 1 [] with segOn := 0x3F } : State).segOn = 0x3F := by
  decide

theorem witness_TickAdvancesTheBank : (3 : Nat) < 4 ∧ (bank 9999 0 0 0).get (BitVec.ofNat 2 0) = 9999 := by decide

theorem witness_TickIsOneFormula : BankLegal (start 1 []).cnt ∧ BankLegal (bank 9999 9999 9999 9999) :=
  ⟨(start_inv 1 (by decide) []).i1, by decide, by decide, by decide, by decide⟩

theorem witness_BankIsTheTickCount :
    (start 1 (List.replicate 6 0b01)).cnt = Bank.zero ∧ NoReset 6 (start 1 (List.replicate 6 0b01)) ∧
    ticksIn 6 (start 1 (List.replicate 6 0b01)) = 6 :=
  ⟨rfl, noReset_replicate rfl rfl, by decide⟩

/-- Two ticks back to back, and two ticks apart in a longer run of another build. -/
theorem witness_BankDependsOnTicksAlone :
    (start 1 [0b01, 0b01]).cnt = (start 2 [0b00, 0b01, 0b01]).cnt ∧ NoReset 2 (start 1 [0b01, 0b01]) ∧
    NoReset 3 (start 2 [0b00, 0b01, 0b01]) ∧ ticksIn 2 (start 1 [0b01, 0b01]) = ticksIn 3 (start 2 [0b00, 0b01, 0b01]) := by
  unfold NoReset
  decide

theorem witness_FetchAndBlankResults : (at3 1 0b01 0 3 0).rstI = false ∧ (at3 1 0b01 0 3 0).ph = 0 := by decide

theorem witness_SelectMovesTheSelection :
    (at3 1 0 2 0 0).blk.toNat ≤ 2 ∧ (at3 1 0 2 2 3).blk.toNat ≤ 2 ∧ (at3 1 0 2 3 0).blk.toNat = 3 := by decide

/-- HoldCountsThenAdvances: a state in each case of its chain, at the bound of the hold, the digit and the block. -/
theorem witness_HoldCountsThenAdvances :
    (at3 2 0 4 0 0).settle < (at3 2 0 4 0 0).cfg.settleCycles - 1 ∧
    (at3 1 0 4 0 2).settle ≥ (at3 1 0 4 0 2).cfg.settleCycles - 1 ∧ (at3 1 0 4 0 2).dig.toNat < 3 ∧
    (at3 1 0 4 1 3).settle ≥ (at3 1 0 4 1 3).cfg.settleCycles - 1 ∧ ¬(at3 1 0 4 1 3).dig.toNat < 3 ∧ (at3 1 0 4 1 3).blk.toNat < 2 ∧
    (at3 1 0 4 2 3).settle ≥ (at3 1 0 4 2 3).cfg.settleCycles - 1 ∧ ¬(at3 1 0 4 2 3).blk.toNat < 2 := by decide

/-- SuccessorOfTheSequencing: a state for each row. -/
theorem witness_SuccessorOfTheSequencing :
    (∀ p : PhCode, (at3 1 0 p 2 3).rstI = false ∧ (at3 1 0 p 2 3).blk.toNat ≤ 2 ∧ (at3 1 0 p 2 3).ph = p) ∧
    (at3 2 0 4 0 0).settle < (at3 2 0 4 0 0).cfg.settleCycles - 1 ∧
    (at3 1 0 4 0 2).settle ≥ (at3 1 0 4 0 2).cfg.settleCycles - 1 ∧ (at3 1 0 4 0 2).dig.toNat < 3 ∧
    (at3 1 0 4 1 3).dig.toNat = 3 ∧ (at3 1 0 4 1 3).blk.toNat < 2 ∧ 2 ≤ (at3 1 0 4 2 3).blk.toNat := by decide

theorem witness_EveryEdgeKeepsTheLegalState : Inv selecting ∧ step selecting = .next (edgeNext selecting) :=
  ⟨selecting_inv, step_next selecting⟩

theorem witness_SettleCountFitsItsRegister :
    Inv (start 1 []) ∧ 1 ≤ (referenceParams 1 true true).settleCycles ∧ 1 ≤ (referenceParams 1664 true true).settleCycles ∧
    (referenceParams 1664 true true).settleCycles ≤ 2 ^ 11 :=
  ⟨start_inv 1 (by decide) [], by decide, by decide, by decide⟩

theorem witness_SelectionChangesOnlyWhileBlank :
    Inv selecting ∧ selecting.rstI = false ∧ step selecting = .next (edgeNext selecting) ∧
    (edgeNext selecting).selOn ≠ selecting.selOn :=
  ⟨selecting_inv, by decide, step_next selecting, by decide⟩

/-- AtMostOnePositionSelected: a SELECT, another phase, a RESET; and a state with exactly one position selected. -/
theorem witness_AtMostOnePositionSelected :
    Inv selecting ∧ selecting.rstI = false ∧ selecting.ph = 2 ∧ ExactlyOne selecting.selOn ∧
    Inv (start 1 [0b00]) ∧ (start 1 [0b00]).rstI = false ∧ (start 1 [0b00]).ph ≠ 2 ∧
    Inv (start 1 [0b10]) ∧ (start 1 [0b10]).rstI = true ∧ step selecting = .next (edgeNext selecting) := by
  refine ⟨selecting_inv, by decide, by decide, ⟨?_, 0, by decide⟩, start_inv 1 (by decide) _, by decide, by decide,
    start_inv 1 (by decide) _, by decide, step_next selecting⟩
  have h : selecting.selOn = selDecode 0 := by decide
  intro p q hp hq
  rw [h, selDecode_bit] at hp hq
  have hp := of_decide_eq_true hp
  have hq := of_decide_eq_true hq
  exact hp.1.trans hq.1.symm

theorem witness_NothingChangesTheBuild :
    exec .tick busy = .next (busy.setBank (bank 0 0 1 0)) ∧ step busy = .next (edgeNext busy) :=
  ⟨rfl, step_next busy⟩

/-- OperationsWriteOnlyTheirRegisters: for each column an operation that changes the register. -/
theorem witness_OperationsWriteOnlyTheirRegisters :
    nextIs (fun t => t.cnt != busy.cnt) (exec .tick busy) = true ∧ nextIs (fun t => t.val != busy.val) (exec .drive busy) = true ∧
    nextIs (fun t => t.ph != busy.ph) (exec .fetch busy) = true ∧ nextIs (fun t => t.blk != busy.blk) (exec .aux busy) = true ∧
    nextIs (fun t => t.dig != busy.dig) (exec .hold busy) = true ∧
    nextIs (fun t => t.settle != busy.settle) (exec (.recover 1) busy) = true ∧
    nextIs (fun t => t.segOn != busy.segOn) (exec .seg0 busy) = true ∧
    nextIs (fun t => t.selOn != busy.selOn) (exec (.seldecB0 0) busy) = true ∧
    nextIs (fun t => t.auxOn != false) (exec .aux { busy with auxOn := false }) = true := by decide

/-- SequencingIgnoresTheTicks: with no tick and with a tick at every edge. -/
theorem witness_SequencingIgnoresTheTicks :
    (start 2 (List.replicate 9 0b00)).sequencing = (start 2 (List.replicate 9 0b01)).sequencing ∧
    (start 2 (List.replicate 9 0b00)).cfg.settleCycles = (start 2 (List.replicate 9 0b01)).cfg.settleCycles ∧
    NoReset 9 (start 2 (List.replicate 9 0b00)) ∧ NoReset 9 (start 2 (List.replicate 9 0b01)) :=
  ⟨rfl, rfl, noReset_replicate rfl rfl, noReset_replicate rfl rfl⟩

/-- IndicatorChangesOnlyAtAux, and the edge of AUX in AuxAndRecoverResults. -/
theorem witness_IndicatorChangesOnlyAtAux :
    (at3 1 0b01 5 2 3).rstI = false ∧ (at3 1 0b01 5 2 3).ph = 5 ∧ (at3 1 0b01 4 2 3).rstI = false ∧ (at3 1 0b01 4 2 3).ph ≠ 5 := by
  decide

theorem witness_PassIsTheSourcesSequence :
    1 ≤ (start 2 (List.replicate 64 0b01)).cfg.settleCycles ∧ (start 2 (List.replicate 64 0b01)).ph = 0 ∧
    (start 2 (List.replicate 64 0b01)).blk = 0 ∧ (start 2 (List.replicate 64 0b01)).settle = 0 ∧
    NoReset (40 + 12 * 2) (start 2 (List.replicate 64 0b01)) :=
  ⟨by decide, rfl, rfl, rfl, noReset_replicate rfl rfl⟩

/-- SequencingIsPeriodic: past the first pass, and at a cycle where the column of `dig` is covered. -/
theorem witness_SequencingIsPeriodic :
    1 ≤ (start 1 (List.replicate 53 0b00)).cfg.settleCycles ∧ (start 1 (List.replicate 53 0b00)).sequencing = (0, 0, 0, 0) ∧
    NoReset 53 (start 1 (List.replicate 53 0b00)) ∧ 53 % (40 + 12 * 1) ≠ 0 :=
  ⟨by decide, rfl, noReset_replicate rfl rfl, by decide⟩

/-- DigIsThreeAtEveryLaterPassStart: at the start of the first pass and of the second. -/
theorem witness_DigIsThreeAtEveryLaterPassStart :
    1 ≤ (start 1 (List.replicate 52 0b01)).cfg.settleCycles ∧ (start 1 (List.replicate 52 0b01)).sequencing = (0, 0, 0, 0) ∧
    NoReset 52 (start 1 (List.replicate 52 0b01)) ∧ 52 % (40 + 12 * 1) = 0 ∧ 52 ≠ 0 ∧
    NoReset 0 (start 1 (List.replicate 52 0b01)) ∧ 0 % (40 + 12 * 1) = 0 :=
  ⟨by decide, rfl, noReset_replicate rfl rfl, by decide, by decide, fun _ h => absurd h (Nat.not_lt_zero _), by decide⟩

/-- SelectionIsAFunctionOfTheCycle: with no tick, and with a tick at every edge, another bank and another position left over; the
first cycle that the statement covers and a later one. -/
theorem witness_SelectionIsAFunctionOfTheCycle :
    (start 2 (List.replicate 3 0b00)).sequencing = (0, 0, 0, 0) ∧
    ({ start 2 (List.replicate 3 0b01) with cnt := bank 42 7 9999 0, selOn := 0x800 } : State).sequencing = (0, 0, 0, 0) ∧
    (start 2 (List.replicate 3 0b00)).cfg.settleCycles =
      ({ start 2 (List.replicate 3 0b01) with cnt := bank 42 7 9999 0, selOn := 0x800 } : State).cfg.settleCycles ∧
    NoReset 3 (start 2 (List.replicate 3 0b00)) ∧
    NoReset 3 { start 2 (List.replicate 3 0b01) with cnt := bank 42 7 9999 0, selOn := 0x800 } ∧
    NoReset 9 (start 2 (List.replicate 9 0b00)) ∧ NoReset 9 (start 2 (List.replicate 9 0b01)) :=
  ⟨rfl, rfl, rfl, noReset_replicate rfl rfl, noReset_replicate rfl rfl, noReset_replicate rfl rfl, noReset_replicate rfl rfl⟩

/-- A block about to be fetched, with a tick at every edge. -/
def fetching (b : Idx) (e : Evt) : State :=
  { start 1 (List.replicate 17 e) with cnt := bank 42 7 9999 0, blk := b, dig := 3 }

theorem witness_BlockShowsTheSampledDigits :
    1 ≤ (fetching 2 0b01).cfg.settleCycles ∧ (fetching 2 0b01).ph = 0 ∧ (fetching 2 0b01).blk.toNat ≤ 2 ∧
    (fetching 2 0b01).settle = 0 ∧ NoReset (blockCycles 1) (fetching 2 0b01) ∧ 0 < (fetching 2 0b01).cfg.settleCycles :=
  ⟨by decide, rfl, by decide, rfl, noReset_replicate rfl rfl, by decide⟩

theorem witness_RenderIsPureInItsOperands :
    (fetching 1 0b00).cfg = (fetching 1 0b01).cfg ∧ (fetching 1 0b00).blk = (fetching 1 0b01).blk ∧
    (fetching 1 0b00).blk.toNat ≤ 2 ∧ (fetching 1 0b00).ph = 0 ∧ (fetching 1 0b01).ph = 0 ∧ (fetching 1 0b00).settle = 0 ∧
    (fetching 1 0b00).cnt.get (fetching 1 0b00).blk = (fetching 1 0b01).cnt.get (fetching 1 0b01).blk ∧
    NoReset (blockCycles 1) (fetching 1 0b00) ∧ NoReset (blockCycles 1) (fetching 1 0b01) ∧ 3 ≤ blockCycles 1 :=
  ⟨rfl, rfl, by decide, rfl, rfl, rfl, rfl, noReset_replicate rfl rfl, noReset_replicate rfl rfl, by decide⟩

theorem witness_CycleLevelRefinesOperationLevel : NoReset 9 (start 1 (List.replicate 9 0b01)) := noReset_replicate rfl rfl

theorem witness_EveryBlockIsSampledWithinOnePass :
    Inv (start 1 (List.replicate 52 0b01)) ∧ NoReset (passCycles 1) (start 1 (List.replicate 52 0b01)) ∧ (2 : Idx).toNat ≤ 2 :=
  ⟨start_inv 1 (by decide) _, noReset_replicate rfl rfl, by decide⟩

theorem witness_FirstPassAfterReset :
    start 1 (List.replicate 51 0b01) = (start 1 (List.replicate 51 0b01)).toReset ∧
    1 ≤ (start 1 (List.replicate 51 0b01)).cfg.settleCycles ∧ NoReset (39 + 12 * 1) (start 1 (List.replicate 51 0b01)) :=
  ⟨rfl, by decide, noReset_replicate rfl rfl⟩

/-- A companion timer that starts cleared, as in P5. -/
def withTimer : State :=
  { start 1 [] with plat := { edge := 0, stream := List.replicate 10 0b00, timer := some { period := 5, tmr := 0 } } }

theorem witness_CompanionTimerTicksEveryPeriod :
    withTimer.plat.timer = some { period := 5, tmr := 0 } ∧ NoReset 10 withTimer ∧ 4 % 5 = 5 - 1 ∧ (1 : Nat) ≤ 5 :=
  ⟨rfl, noReset_replicate rfl rfl, by decide, by decide⟩

/-- CompanionTimerStaysInRange: with rst_i = 0, and with rst_i = 1 at the last count. -/
theorem witness_CompanionTimerStaysInRange :
    TimerLegal withTimer ∧ step withTimer = .next (edgeNext withTimer) ∧
    TimerLegal (timed 4 0b10) ∧ step (timed 4 0b10) = .next (edgeNext (timed 4 0b10)) ∧ (timed 4 0b10).rstI = true :=
  ⟨fun t h => by cases h; decide, step_next _, fun t h => by cases h; decide, step_next _, by decide⟩

/-! ### The two places where a sentence of the spec is narrowed -/

/-- R181 and R119 (log entry 12): `dig` is 0 in cycle 0, and the AUX that ends a pass leaves it at 3 (P3, cycle 64). -/
theorem test_dig_at_pass_start :
    (start 1 []).dig = 0 ∧
    nextIs (fun t => t.ph == 0 && t.blk == 0 && t.dig == 3) (step (at3 1 0 5 2 3)) = true := by decide

end Sys2Proof.Tests
end

namespace Sys2Proof.Machine

/-! ### The width of a counting register (R5, R23) -/

/-- The `max(1, ·)` of R5. -/
theorem one_le_counterWidth (n : Nat) : 1 ≤ Config.counterWidth n := Nat.le_add_left 1 _

/-- With `le_two_pow_counterWidth`, the width is least among those of at least 1 bit. For `n - 1 = 0` it is the bound `1 ≤ w`
that decides; above that the logarithm does. -/
theorem counterWidth_le {n w : Nat} (hw : 1 ≤ w) (hn : n ≤ 2 ^ w) : Config.counterWidth n ≤ w := by
  unfold Config.counterWidth
  obtain h0 | hpos := Nat.eq_zero_or_pos (n - 1)
  · rw [h0, Nat.log2_zero]
    exact hw
  · have hlt : n - 1 < 2 ^ w := by omega
    exact (Nat.log2_lt hpos.ne').mpr hlt

/-- The hold counter stops at SETTLE_CYCLES - 1 (I5), and SETTLE_CYCLES is at least 1. -/
theorem SeqLegal.settle_lt_settleCycles {s : State} (h : SeqLegal s) : s.settle < s.cfg.settleCycles := by
  have hpos := h.params
  have hmax := h.settle
  omega

/-- Settles O28: the count stays below SETTLE_CYCLES, which SW bits hold, and no smaller width of at least 1 bit does. -/
theorem settleCountFitsItsRegister : Obligations.SettleCountFitsItsRegister := by
  refine ⟨fun s hs => ?_, fun c _ => ⟨one_le_counterWidth _, fun w hw hc => counterWidth_le hw hc⟩⟩
  calc s.settle < s.cfg.settleCycles := hs.seqLegal.settle_lt_settleCycles
    _ ≤ 2 ^ s.cfg.settleWidth := le_two_pow_counterWidth _

/-! ### What no operation and no edge changes (R5) -/

/-- Settles O31: the frame of `exec`, and an edge's next state is `edgeNext`, which keeps the build. -/
theorem nothingChangesTheBuild : Obligations.NothingChangesTheBuild := by
  refine ⟨fun i s t h => exec_keeps_cfg_plat h, fun s t h => ?_⟩
  rw [step_eq_next h, edgeNext_cfg]

end Sys2Proof.Machine

namespace Sys2Proof.Machine

/-! ### The bank (R31 I1) -/

/-- A counter that meets I1 meets it after a TICK, with or without a carry into it: past COUNTER_MAX it wraps to 0. -/
theorem tickCounter_le {v : Dec} (c : Bool) (hv : v.toNat ≤ Config.counterMax) :
    (tickCounter c v).1.toNat ≤ Config.counterMax := by
  by_cases hw : c = true ∧ v.toNat + 1 > Config.counterMax
  · rw [(tickCounter_wraps c v hw).1]
    exact Nat.zero_le _
  · rw [(tickCounter_toNat c v hw).1]
    cases c
    · exact hv
    · exact Nat.le_of_not_lt fun hlt => hw ⟨rfl, hlt⟩

theorem BankLegal.tickBank {b : Bank} (h : BankLegal b) : BankLegal (tickBank b) :=
  ⟨tickCounter_le _ h.c0, tickCounter_le _ h.c1, tickCounter_le _ h.c2, tickCounter_le _ h.c3⟩

theorem BankLegal.bankAfter {s : State} (h : BankLegal s.cnt) : BankLegal (bankAfter s) := by
  unfold Machine.bankAfter
  split
  · exact h.tickBank
  · exact h

theorem BankLegal.get_le {b : Bank} (h : BankLegal b) (i : Idx) : (b.get i).toNat ≤ Config.counterMax := by
  unfold Bank.get
  split_ifs
  · exact h.c0
  · exact h.c1
  · exact h.c2
  · exact h.c3

/-! ### The values of sel_on and seg_on (R31 I7, I9) -/

/-- The legal selections are the decoder's values; every reserved index gives the empty one. -/
theorem selLegal_iff {v : Sel} : SelLegal v ↔ ∃ p : Posx, v = selDecode p := by
  constructor
  · rintro (rfl | ⟨p, rfl⟩)
    · exact ⟨15, by decide⟩
    · exact ⟨BitVec.ofNat 4 p.val, by revert p; decide⟩
  · rintro ⟨p, rfl⟩
    unfold selDecode
    split
    next hp => exact .inr ⟨⟨p.toNat, by omega⟩, rfl⟩
    next => exact .inl rfl

theorem atMostOne_selDecode (p : Posx) : AtMostOne (selDecode p) := by
  intro j k hj hk
  rw [selDecode_bit, decide_eq_true_eq] at hj hk
  exact hj.1.trans hk.1.symm

theorem SelLegal.atMostOne {v : Sel} (h : SelLegal v) : AtMostOne v := by
  obtain ⟨p, rfl⟩ := selLegal_iff.mp h
  exact atMostOne_selDecode p

/-- A displayed block names no reserved position (R66). -/
theorem exactlyOne_selDecode_pos {b j : Idx} (hb : b.toNat ≤ 2) : ExactlyOne (selDecode (pos b j)) := by
  refine ⟨atMostOne_selDecode _, (pos b j).toNat, ?_⟩
  have hj := j.isLt
  have hpos := pos_toNat b j
  rw [selDecode_bit, decide_eq_true_eq]
  exact ⟨rfl, by omega⟩

theorem segLegal_segTable_digitOf (c : Params) (v : Dec) : SegLegal c (segTable c (digitOf v)) :=
  .inr ⟨⟨v.toNat % 10, Nat.mod_lt _ (by decide)⟩, rfl⟩

/-! ### What each code space's operations do to the state (R34, R118) -/

theorem exec_evt_cases {i : Instr} {s t : State} (hi : spaceOf i = .evt) (h : exec i s = .next t) :
    (∃ x, i = .reset x) ∨ (i = .tick ∧ t = s.setBank (tickBank s.cnt)) ∨ (i = .notick ∧ t = s) := by
  cases i <;> cases hi
  case reset x => exact .inl ⟨x, rfl⟩
  case tick => cases h; exact .inr (.inl ⟨rfl, rfl⟩)
  case notick => cases h; exact .inr (.inr ⟨rfl, rfl⟩)

theorem exec_posx {i : Instr} {s t : State} (hi : spaceOf i = .posx) (h : exec i s = .next t) : ∃ p, t = loadSel p s := by
  cases i <;> cases hi <;> cases h <;> exact ⟨_, rfl⟩

theorem exec_dig {i : Instr} {s t : State} (hi : spaceOf i = .dig) (h : exec i s = .next t) : ∃ d, t = loadSeg d s := by
  cases i <;> cases hi <;> cases h <;> exact ⟨_, rfl⟩

/-- The micro-operations, with HOLD, which alone branches, in front. -/
theorem spaceOf_eq_ph_cases {i : Instr} (hi : spaceOf i = .ph) :
    i = .hold ∨ i = .fetch ∨ i = .blank ∨ i = .select ∨ i = .drive ∨ i = .aux ∨ ∃ x, i = .recover x := by
  cases i <;> cases hi <;> simp

/-- HOLD writes the sequencing registers alone. -/
theorem exec_hold_frame {s t : State} (h : exec .hold s = .next t) :
    t.cnt = s.cnt ∧ t.val = s.val ∧ t.segOn = s.segOn ∧ t.selOn = s.selOn ∧ t.auxOn = s.auxOn := by
  cases h
  split
  · obtain ⟨-, e⟩ | ⟨-, -, e⟩ | ⟨-, -, e⟩ := advancePosition_cases (s.setSettle 0) <;> simp [e]
  · simp

/-- Settles O32, by code space: an event writes the bank, a selector row sel_on, a table row seg_on, and the seven
micro-operations are read off one by one. -/
theorem operationsWriteOnlyTheirRegisters : Obligations.OperationsWriteOnlyTheirRegisters := by
  intro i s t h hr
  cases hsp : spaceOf i with
  | evt =>
    obtain ⟨x, hx⟩ | ⟨rfl, rfl⟩ | ⟨rfl, rfl⟩ := exec_evt_cases hsp h
    · exact absurd hx (hr x)
    · simp
    · simp
  | posx =>
    obtain ⟨p, rfl⟩ := exec_posx hsp h
    simp [loadSel]
  | dig =>
    obtain ⟨d, rfl⟩ := exec_dig hsp h
    simp [loadSeg]
  | ph =>
    obtain rfl | rfl | rfl | rfl | rfl | rfl | ⟨x, rfl⟩ := spaceOf_eq_ph_cases hsp
    · obtain ⟨hcnt, hval, hseg, hsel, haux⟩ := exec_hold_frame h
      simp [hcnt, hval, hseg, hsel, haux]
    all_goals
      cases h
      simp [loadSel, loadSeg]

/-! ### What one edge does to each register (R117, R118) -/

theorem spaceOf_decodePh (p : PhCode) : spaceOf (decodePh p) = .ph := by
  revert p
  decide

/-- The phase of each micro-operation that writes val or an output register (R67). -/
theorem phase_of_decodePh (p : PhCode) :
    (decodePh p = .fetch → p = 0) ∧ (decodePh p = .blank → p = 1) ∧ (decodePh p = .select → p = 2) ∧
    (decodePh p = .drive → p = 3) ∧ (decodePh p = .aux → p = 5) := by
  revert p
  decide

/-- An edge with rst_i = 0 leaves val and the output registers outside the phases whose micro-operation writes them. -/
theorem edgeNext_frame {s : State} (h : s.rstI = false) :
    (s.ph ≠ 0 → s.ph ≠ 3 → (edgeNext s).val = s.val) ∧ (s.ph ≠ 1 → s.ph ≠ 3 → (edgeNext s).segOn = s.segOn) ∧
    (s.ph ≠ 2 → (edgeNext s).selOn = s.selOn) ∧ (s.ph ≠ 5 → (edgeNext s).auxOn = s.auxOn) := by
  obtain ⟨m, hm⟩ := exec_next (decodePh s.ph) s
  have hsp := spaceOf_decodePh s.ph
  have hreset : ∀ x, decodePh s.ph ≠ .reset x := fun x hx => by simp [hx, spaceOf] at hsp
  obtain ⟨-, hval, -, -, -, -, hseg, hsel, haux⟩ := operationsWriteOnlyTheirRegisters _ _ _ hm hreset
  obtain ⟨hfetch, hblank, hselect, hdrive, hauxop⟩ := phase_of_decodePh s.ph
  rw [edgeNext_run h hm]
  refine ⟨fun h0 h3 => by_contra fun hne => ?_, fun h1 h3 => by_contra fun hne => ?_,
    fun h2 => by_contra fun hne => ?_, fun h5 => by_contra fun hne => h5 (hauxop (haux hne))⟩
  · exact (hval hne).elim (h0 ∘ hfetch) (h3 ∘ hdrive)
  · obtain hi | hi | hi := hseg hne
    · exact h1 (hblank hi)
    · exact h3 (hdrive hi)
    · simp [hsp] at hi
  · obtain hi | hi := hsel hne
    · exact h2 (hselect hi)
    · simp [hsp] at hi

theorem edgeNext_val_of_ne {s : State} (h : s.rstI = false) (h0 : s.ph ≠ 0) (h3 : s.ph ≠ 3) : (edgeNext s).val = s.val := by
  obtain ⟨hval, -⟩ := edgeNext_frame h
  exact hval h0 h3

theorem edgeNext_segOn_of_ne {s : State} (h : s.rstI = false) (h1 : s.ph ≠ 1) (h3 : s.ph ≠ 3) :
    (edgeNext s).segOn = s.segOn := by
  obtain ⟨-, hseg, -⟩ := edgeNext_frame h
  exact hseg h1 h3

theorem edgeNext_selOn_of_ne {s : State} (h : s.rstI = false) (h2 : s.ph ≠ 2) : (edgeNext s).selOn = s.selOn := by
  obtain ⟨-, -, hsel, -⟩ := edgeNext_frame h
  exact hsel h2

theorem edgeNext_auxOn_of_ne {s : State} (h : s.rstI = false) (h5 : s.ph ≠ 5) : (edgeNext s).auxOn = s.auxOn := by
  obtain ⟨-, -, -, haux⟩ := edgeNext_frame h
  exact haux h5

/-- R119's table read backwards: from where an edge with rst_i = 0 enters each phase, and what it keeps of the position. -/
theorem edgeNext_ph_origin {s : State} (h : s.rstI = false) (hl : SeqLegal s) :
    ((edgeNext s).ph = 0 ∨ (edgeNext s).ph = 5 → s.ph = 5 ∨ s.ph = 4 ∧ s.dig.toNat = 3) ∧
    ((edgeNext s).ph = 1 → s.ph = 0 ∧ (edgeNext s).dig = 0 ∨
      s.ph = 4 ∧ s.dig.toNat < 3 ∧ (edgeNext s).dig.toNat = s.dig.toNat + 1) ∧
    ((edgeNext s).ph = 2 → s.ph = 1 ∧ (edgeNext s).dig = s.dig) ∧
    ((edgeNext s).ph = 3 → s.ph = 2 ∧ (edgeNext s).blk = s.blk ∧ (edgeNext s).dig = s.dig) ∧
    ((edgeNext s).ph = 4 → (s.ph = 3 ∨ s.ph = 4) ∧ (edgeNext s).blk = s.blk ∧ (edgeNext s).dig = s.dig) := by
  obtain ⟨p, q, b, d, -⟩ | ⟨p, q, b, d, -⟩ | ⟨p, q, b, d, -⟩ | ⟨p, q, b, d, -⟩ | ⟨p, -, q, b, d, -⟩ |
    ⟨p, -, -, ⟨dd, q, b, d⟩ | ⟨dd, -, q, b, d⟩ | ⟨dd, -, q, b, d⟩⟩ | ⟨p, q, b, d, -⟩ := edgeNext_seq_cases h hl
  all_goals simp [*]

/-! ### The invariant, register by register (R31) -/

/-- I7: SELECT writes a value of the decoder, and no other edge writes sel_on. -/
theorem Inv.edge_selLegal {s : State} (hs : Inv s) (h : s.rstI = false) : SelLegal (edgeNext s).selOn := by
  by_cases hp : s.ph = 2
  · rw [edgeNext_select h hp]
    exact selLegal_iff.mpr ⟨_, rfl⟩
  · rw [edgeNext_selOn_of_ne h hp]
    exact hs.i7

/-- A position is driven or held only after the SELECT that named it, with position and selection kept since. -/
theorem Inv.edge_shown {s : State} (hs : Inv s) (h : s.rstI = false) (ht : (edgeNext s).ph = 3 ∨ (edgeNext s).ph = 4) :
    (edgeNext s).selOn = selDecode (pos (edgeNext s).blk (edgeNext s).dig) := by
  obtain ⟨-, -, -, to3, to4⟩ := edgeNext_ph_origin h hs.seqLegal
  obtain ht | ht := ht
  · obtain ⟨hp, hb, hd⟩ := to3 ht
    rw [hb, hd, edgeNext_select h hp]
    rfl
  · obtain ⟨hp, hb, hd⟩ := to4 ht
    have hne : s.ph ≠ 2 := by rintro e; simp [e] at hp
    rw [hb, hd, edgeNext_selOn_of_ne h hne]
    exact hs.shown hp

/-- I9: BLANK writes 0, DRIVE the table entry of a decimal digit, and no other edge writes seg_on. -/
theorem Inv.edge_segLegal {s : State} (hs : Inv s) (h : s.rstI = false) : SegLegal (edgeNext s).cfg (edgeNext s).segOn := by
  rw [edgeNext_cfg]
  by_cases h1 : s.ph = 1
  · rw [edgeNext_blank h h1]
    exact .inl rfl
  by_cases h3 : s.ph = 3
  · rw [edgeNext_drive h h3]
    exact segLegal_segTable_digitOf s.cfg s.val
  · rw [edgeNext_segOn_of_ne h h1 h3]
    exact hs.i9

/-- SELECT is due only after a BLANK, and DRIVE after a SELECT, which keeps seg_on. -/
theorem Inv.edge_blanked {s : State} (hs : Inv s) (h : s.rstI = false) (ht : (edgeNext s).ph = 2 ∨ (edgeNext s).ph = 3) :
    (edgeNext s).segOn = 0 := by
  obtain ⟨-, -, to2, to3, -⟩ := edgeNext_ph_origin h hs.seqLegal
  obtain ht | ht := ht
  · rw [edgeNext_blank h (to2 ht).1]
    rfl
  · have hp := (to3 ht).1
    rw [edgeNext_segOn_of_ne h (by simp [hp]) (by simp [hp])]
    exact hs.blanked (.inl hp)

/-- I2: FETCH samples a legal counter, DRIVE divides, and no other edge writes val. -/
theorem Inv.edge_val_le {s : State} (hs : Inv s) (h : s.rstI = false) : (edgeNext s).val.toNat ≤ Config.counterMax := by
  by_cases h0 : s.ph = 0
  · rw [edgeNext_fetch h h0]
    exact hs.i1.get_le s.blk
  by_cases h3 : s.ph = 3
  · rw [edgeNext_drive h h3]
    calc (quotient s.val).toNat = s.val.toNat / 10 := quotient_toNat _
      _ ≤ s.val.toNat := Nat.div_le_self _ _
      _ ≤ Config.counterMax := hs.i2
  · rw [edgeNext_val_of_ne h h0 h3]
    exact hs.i2

/-- Before DRIVE, val has as many digits as are still to show: four after FETCH, and after the hold of a digit one less. -/
theorem Inv.edge_left {s : State} (hs : Inv s) (h : s.rstI = false)
    (ht : (edgeNext s).ph = 1 ∨ (edgeNext s).ph = 2 ∨ (edgeNext s).ph = 3) :
    (edgeNext s).val.toNat < 10 ^ (4 - (edgeNext s).dig.toNat) := by
  obtain ⟨-, to1, to2, to3, -⟩ := edgeNext_ph_origin h hs.seqLegal
  obtain ht | ht | ht := ht
  · obtain ⟨hp, hd⟩ | ⟨hp, -, hd⟩ := to1 ht
    · rw [hd, edgeNext_fetch h hp]
      exact Nat.lt_succ_of_le (hs.i1.get_le s.blk)
    · rw [hd, edgeNext_val_of_ne h (by simp [hp]) (by simp [hp]), show 4 - (s.dig.toNat + 1) = 3 - s.dig.toNat by omega]
      exact hs.leftHold hp
  · obtain ⟨hp, hd⟩ := to2 ht
    rw [hd, edgeNext_val_of_ne h (by simp [hp]) (by simp [hp])]
    exact hs.left (.inl hp)
  · obtain ⟨hp, -, hd⟩ := to3 ht
    rw [hd, edgeNext_val_of_ne h (by simp [hp]) (by simp [hp])]
    exact hs.left (.inr (.inl hp))

/-- DRIVE takes one digit off val, and the hold keeps it. -/
theorem Inv.edge_leftHold {s : State} (hs : Inv s) (h : s.rstI = false) (ht : (edgeNext s).ph = 4) :
    (edgeNext s).val.toNat < 10 ^ (3 - (edgeNext s).dig.toNat) := by
  obtain ⟨-, -, -, -, to4⟩ := edgeNext_ph_origin h hs.seqLegal
  obtain ⟨hp | hp, -, hd⟩ := to4 ht
  · have hval : (edgeNext s).val.toNat = s.val.toNat / 10 := by
      rw [edgeNext_drive h hp]
      exact quotient_toNat s.val
    have hdig := s.dig.isLt
    rw [hd, hval, Nat.div_lt_iff_lt_mul (by decide), ← Nat.pow_succ, show (3 - s.dig.toNat).succ = 4 - s.dig.toNat by omega]
    exact hs.left (.inr (.inr hp))
  · rw [hd, edgeNext_val_of_ne h (by simp [hp]) (by simp [hp])]
    exact hs.leftHold hp

/-- A block ends after its fourth digit, which leaves nothing of the sample. -/
theorem Inv.edge_spent {s : State} (hs : Inv s) (h : s.rstI = false) (ht : (edgeNext s).ph = 0 ∨ (edgeNext s).ph = 5) :
    (edgeNext s).val = 0 := by
  obtain hp | ⟨hp, hd⟩ := (edgeNext_ph_origin h hs.seqLegal).1 ht
  · rw [edgeNext_val_of_ne h (by simp [hp]) (by simp [hp])]
    exact hs.spent (.inr hp)
  · have hlt := hs.leftHold hp
    rw [hd] at hlt
    rw [edgeNext_val_of_ne h (by simp [hp]) (by simp [hp])]
    exact BitVec.eq_of_toNat_eq (Nat.lt_one_iff.mp hlt)

/-- An edge with rst_i = 0 keeps the invariant. -/
theorem Inv.edge_run {s : State} (hs : Inv s) (h : s.rstI = false) : Inv (edgeNext s) where
  params := by rw [edgeNext_cfg]; exact hs.params
  i1 := by rw [edgeNext_cnt h]; exact hs.i1.bankAfter
  i2 := hs.edge_val_le h
  i3 := (hs.seqLegal.edge h).ph
  i4 := (hs.seqLegal.edge h).blk
  i5 := (hs.seqLegal.edge h).settle
  i6 := (hs.seqLegal.edge h).idle
  i7 := hs.edge_selLegal h
  i9 := hs.edge_segLegal h
  blanked := hs.edge_blanked h
  shown := hs.edge_shown h
  left := hs.edge_left h
  leftHold := hs.edge_leftHold h
  spent := hs.edge_spent h

/-- The registers at reset meet the invariant in every build whose parameters are in range (R32). -/
theorem inv_toReset {s : State} (hc : s.cfg.wellFormed = true) : Inv s.toReset where
  params := hc
  i1 := ⟨Nat.zero_le _, Nat.zero_le _, Nat.zero_le _, Nat.zero_le _⟩
  i2 := Nat.zero_le _
  i3 := Nat.zero_le _
  i4 := Nat.zero_le _
  i5 := Nat.zero_le _
  i6 := fun _ => rfl
  i7 := .inl rfl
  i9 := .inl rfl
  blanked := fun _ => rfl
  shown := by simp
  left := by simp
  leftHold := by simp
  spent := fun _ => rfl

/-- The invariant speaks of the registers and the build, which the end of an edge leaves. -/
theorem Inv.closeEdge {t : State} (ht : Inv t) (s : State) : Inv (s.closeEdge t) := { ht with }

/-- Settles O27: RESET gives the reset registers in the same build, and any other edge keeps the invariant register by
register. -/
theorem everyEdgeKeepsTheLegalState : Obligations.EveryEdgeKeepsTheLegalState := by
  intro s t hs hstep
  rw [step_eq_next hstep]
  cases h : s.rstI with
  | true =>
    rw [edgeNext_reset h]
    exact (inv_toReset hs.params).closeEdge s
  | false => exact hs.edge_run h

/-- Settles O26: the state after reset is its own reset state, its SETTLE_CYCLES is a successor, and no timer is attached. -/
theorem resetStateIsLegal : Obligations.ResetStateIsLegal := by
  have hc : State.reset.cfg.wellFormed = true := decide_eq_true (Nat.le_add_left 1 Config.openSettle)
  refine ⟨inv_toReset hc, fun t ht => ?_⟩
  cases ht

/-! ### Safety of the selection (R31 I8, R101) -/

/-- Settles O29: only SELECT changes the selection; it is due with the segments blank, and it leaves them so. -/
theorem selectionChangesOnlyWhileBlank : Obligations.SelectionChangesOnlyWhileBlank := by
  intro s t hs h hstep hne
  rw [step_eq_next hstep] at hne ⊢
  have hp : s.ph = 2 := by_contra fun hp => hne (edgeNext_selOn_of_ne h hp)
  have hblank := hs.blanked (.inl hp)
  exact ⟨hblank, (edgeNext_segOn_of_ne h (by simp [hp]) (by simp [hp])).trans hblank⟩

/-- A SELECT of a legal state selects exactly one position. -/
theorem Inv.exactlyOne_select {s : State} (hs : Inv s) (h : s.rstI = false) (hp : s.ph = 2) : ExactlyOne (edgeNext s).selOn := by
  rw [edgeNext_select h hp]
  exact exactlyOne_selDecode_pos hs.i4

/-- Settles O30: a legal selection has at most one bit, before and after the edge; RESET clears it, SELECT makes it one-hot, and
no other edge touches it. -/
theorem atMostOnePositionSelected : Obligations.AtMostOnePositionSelected := by
  intro s t hs hstep
  have ht := everyEdgeKeepsTheLegalState s t hs hstep
  rw [step_eq_next hstep] at ht ⊢
  refine ⟨hs.i7.atMostOne, ht.i7.atMostOne, fun h => ?_, hs.exactlyOne_select, edgeNext_selOn_of_ne, fun h hone => ?_⟩
  · rw [edgeNext_reset h]
    rfl
  · by_cases hp : s.ph = 2
    · exact hs.exactlyOne_select h hp
    · rw [edgeNext_selOn_of_ne h hp]
      exact hone

/-! ### The indicator (R115, R127) -/

/-- Settles O34: AUX reads counter 1 of the state before the edge, and no other phase writes aux_on. -/
theorem indicatorChangesOnlyAtAux : Obligations.IndicatorChangesOnlyAtAux := by
  refine fun s h => ⟨edgeNext s, step_next s, fun hp => ?_, edgeNext_auxOn_of_ne h⟩
  rw [edgeNext_aux h hp]
  exact parity_eq s.cnt.c1

/-! ### One edge and its pins (R17, R32, R71) -/

theorem wellFormedIn_iff {sp : Space} {i : Instr} : i.wellFormedIn sp = true ↔ spaceOf i = sp := decide_eq_true_iff

/-- Settles O4: the laws of the two kinds of edge, with the decoder read at the pins and at each phase. -/
theorem edgeRunsTheDecodedOperations : Obligations.EdgeRunsTheDecodedOperations := by
  refine ⟨fun s h => ?_, fun s h => ?_, by decide⟩
  · have hevt := decodeEvt_evt s
    rw [h, if_pos rfl] at hevt
    exact ⟨_, s.toReset, hevt, rfl, step_reset h⟩
  · have hevt : decodeEvt s.evt = if s.tickI then .tick else .notick := by
      rw [decodeEvt_evt, h]
      rfl
    have hspace : spaceOf (decodeEvt s.evt) = .evt := by
      rw [hevt]
      cases s.tickI <;> rfl
    obtain ⟨m, hm⟩ := exec_next (decodePh s.ph) s
    exact ⟨hevt, wellFormedIn_iff.mpr hspace, wellFormedIn_iff.mpr (spaceOf_decodePh _), _, m, bankOp_next h, hm,
      step_run h hm⟩

/-- A dark line stands at the inactive level of its group (R70). -/
theorem pinVec_zero_bit {w : Nat} (level : Bool) {k : Nat} (hk : k < w) : (pinVec level (0 : BitVec w)).getLsbD k = !level := by
  rw [pinVec_bit _ _ _ hk]
  simp [pinBit]

/-- Settles O8: the edge is RESET alone, so every register is 0 and every line of the pins is dark. -/
theorem resetStepLeavesTheResetState : Obligations.ResetStepLeavesTheResetState := by
  refine fun s h => ⟨_, step_reset h, rfl, rfl, rfl, rfl, rfl, rfl, rfl, rfl, rfl, rfl, rfl, rfl,
    fun p hp => pinVec_zero_bit _ hp, fun p hp => pinVec_zero_bit _ hp, rfl, ?_⟩
  simp [State.rearmO, h]

/-- Settles O25: both readings are the pins at 01. -/
theorem rearmMarksExactlyTheTicks : Obligations.RearmMarksExactlyTheTicks := by
  intro s
  rw [decodeEvt_evt, State.rearmO]
  cases s.rstI <;> cases s.tickI <;> simp

end Sys2Proof.Machine

namespace Sys2Proof.Machine

/-! ### The operation level and the platform's side (R52, log entry 1) -/

/-- The registers and the build of `s` with another platform's side: how a run of the operation level, which leaves the
platform's side where it is, is compared with a run of edges, which moves it on. -/
def State.withPlat (s : State) (p : Platform) : State := { s with plat := p }

theorem State.withPlat_withPlat (s : State) (p q : Platform) : (s.withPlat p).withPlat q = s.withPlat q := rfl

/-- The tests of HOLD's advance read registers alone. -/
theorem advancePosition_withPlat (s : State) (p : Platform) :
    advancePosition (s.withPlat p) = (advancePosition s).withPlat p := by
  simp only [advancePosition, apply_ite (State.withPlat · p)]
  rfl

theorem exec_hold_withPlat (s : State) (p : Platform) :
    exec .hold (s.withPlat p) = mapOutcome (State.withPlat · p) (exec .hold s) := by
  show Host.Outcome.next _ = Host.Outcome.next _
  simp only [apply_ite (State.withPlat · p), ← advancePosition_withPlat]
  rfl

/-- No operation reads the platform's side. HOLD alone branches; every other operation is a chain of register writes. -/
theorem exec_withPlat (i : Instr) (s : State) (p : Platform) :
    exec i (s.withPlat p) = mapOutcome (State.withPlat · p) (exec i s) := by
  cases i
  case hold => exact exec_hold_withPlat s p
  all_goals rfl

theorem opStep_withPlat (e : OpEvent) (s : State) (p : Platform) :
    opStep e (s.withPlat p) = mapOutcome (State.withPlat · p) (opStep e s) := by
  cases e
  · exact exec_withPlat .tick s p
  · exact exec_withPlat (decodePh s.ph) s p

/-! ### Runs of the operation level -/

theorem opStep_next (e : OpEvent) (s : State) : ∃ t, opStep e s = .next t := by
  cases e
  · exact exec_next .tick s
  · exact exec_next (decodePh s.ph) s

theorem opRun_cons {e : OpEvent} {s t : State} (h : opStep e s = .next t) (es : List OpEvent) :
    opRun (e :: es) s = opRun es t := by
  rw [opRun, h]

theorem opRun_append {es : List OpEvent} {s t : State} (h : opRun es s = .next t) (fs : List OpEvent) :
    opRun (es ++ fs) s = opRun fs t := by
  induction es generalizing s with
  | nil => cases h; rfl
  | cons e es ih =>
    obtain ⟨u, hu⟩ := opStep_next e s
    rw [opRun_cons hu] at h
    rw [List.cons_append, opRun_cons hu, ih h]

/-- No run of the operation level reads the platform's side. -/
theorem opRun_withPlat {es : List OpEvent} {s t : State} (h : opRun es s = .next t) (p : Platform) :
    opRun es (s.withPlat p) = .next (t.withPlat p) := by
  induction es generalizing s with
  | nil => cases h; rfl
  | cons e es ih =>
    obtain ⟨u, hu⟩ := opStep_next e s
    rw [opRun_cons hu] at h
    have hp : opStep e (s.withPlat p) = .next (u.withPlat p) := by rw [opStep_withPlat, hu]; rfl
    rw [opRun_cons hp, ih h]

/-! ### Every run of edges is a run of the operation level (R52, R147) -/

/-- One edge: the micro-operation leaves the bank (R34), so the TICK after it advances the bank that the edge's own TICK
reads. -/
theorem opRun_edgeEvents {s : State} (h : s.rstI = false) :
    opRun (edgeEvents s) s = .next ((edgeNext s).withPlat s.plat) := by
  obtain ⟨m, hm⟩ := exec_next (decodePh s.ph) s
  have hscan : opStep .scan s = .next m := hm
  have hcnt : m.cnt = s.cnt := scan_keeps_bank hm
  obtain ⟨-, hplat⟩ := exec_keeps_cfg_plat hm
  rw [edgeNext_run h hm, edgeEvents, bankAfter, ← hcnt, ← hplat]
  cases s.tickI with
  | true => exact opRun_cons hscan [.tick]
  | false => exact opRun_cons hscan []

/-- The edges' operations, run from the state before them, leave the registers of the state after them. -/
theorem opRun_eventsIn {n : Nat} {s : State} (h : NoReset n s) :
    opRun (eventsIn n s) s = .next ((after n s).withPlat s.plat) := by
  induction n generalizing s with
  | zero => rfl
  | succ n ih =>
    calc opRun (edgeEvents s ++ eventsIn n (edgeNext s)) s
        = opRun (eventsIn n (edgeNext s)) ((edgeNext s).withPlat s.plat) := opRun_append (opRun_edgeEvents h.head) _
      _ = .next (((after n (edgeNext s)).withPlat (edgeNext s).plat).withPlat s.plat) := opRun_withPlat (ih h.tail) s.plat
      _ = .next ((after n (edgeNext s)).withPlat s.plat) := by rw [State.withPlat_withPlat]

/-- Settles O39: the operation level's run ends in the edges' registers, beside the platform's side that it started with. -/
theorem cycleLevelRefinesOperationLevel : Obligations.CycleLevelRefinesOperationLevel :=
  fun _ _ h => ⟨_, opRun_eventsIn h, rfl⟩

end Sys2Proof.Machine

namespace Sys2Proof.Machine

/-! ### Decoder and encoder (R60, R63, R66 to R68, R71) -/

/-- Every code fits its space's format, constructor by constructor. -/
theorem encode_fits (i : Instr) : (encode i).toNat < 2 ^ (spaceOf i).width :=
  match i with
  | .reset t => Laws.Fits.reset t
  | .tick => Laws.Fits.tick
  | .notick => Laws.Fits.notick
  | .fetch => Laws.Fits.fetch
  | .blank => Laws.Fits.blank
  | .select => Laws.Fits.select
  | .drive => Laws.Fits.drive
  | .hold => Laws.Fits.hold
  | .aux => Laws.Fits.aux
  | .recover x => Laws.Fits.recover x
  | .seldecB0 j => Laws.Fits.seldecB0 j
  | .seldecB1 j => Laws.Fits.seldecB1 j
  | .seldecB2 j => Laws.Fits.seldecB2 j
  | .seldecRsvd j => Laws.Fits.seldecRsvd j
  | .seg0 => Laws.Fits.seg0
  | .seg1 => Laws.Fits.seg1
  | .seg2 => Laws.Fits.seg2
  | .seg3 => Laws.Fits.seg3
  | .seg4 => Laws.Fits.seg4
  | .seg5 => Laws.Fits.seg5
  | .seg6 => Laws.Fits.seg6
  | .seg7 => Laws.Fits.seg7
  | .seg8 => Laws.Fits.seg8
  | .seg9 => Laws.Fits.seg9
  | .segRsvdA x => Laws.Fits.segRsvdA x
  | .segRsvdB x => Laws.Fits.segRsvdB x

theorem decode_of_fits {sp : Space} {w : Byte} (h : w.toNat < 2 ^ sp.width) : decode sp w = .ok (decodeLow sp w) := if_pos h

theorem decode_of_not_fits {sp : Space} {w : Byte} (h : ¬ w.toNat < 2 ^ sp.width) :
    decode sp w = .error (.aboveFormat sp w) := if_neg h

/-- A row without bits of its own is read off its fixed code; the others are read at every value of theirs. -/
theorem decodeLow_encode (i : Instr) : decodeLow (spaceOf i) (encode i) = i := by
  cases i
  case reset x | recover x | seldecB0 x | seldecB1 x | seldecB2 x | seldecRsvd x | segRsvdA x | segRsvdB x =>
    revert x
    decide
  all_goals rfl

/-- Settles O1: the code fits its space's format, and its low bits name the operation. -/
theorem encodingRoundTrips : Obligations.EncodingRoundTrips :=
  fun i => (decode_of_fits (encode_fits i)).trans (congrArg _ (decodeLow_encode i))

theorem spaceOf_decodePosx (p : Posx) : spaceOf (decodePosx p) = .posx := by
  revert p
  decide

theorem spaceOf_decodeDig (d : DigCode) : spaceOf (decodeDig d) = .dig := by
  revert d
  decide

theorem spaceOf_decodeLow (sp : Space) (w : Byte) : spaceOf (decodeLow sp w) = sp := by
  have hevt : ∀ e : Evt, spaceOf (decodeEvt e) = .evt := by decide
  cases sp with
  | evt => exact hevt _
  | ph => exact spaceOf_decodePh _
  | posx => exact spaceOf_decodePosx _
  | dig => exact spaceOf_decodeDig _

theorem encode_decodePosx (p : Posx) : encode (decodePosx p) = p.setWidth 8 := by
  revert p
  decide

theorem encode_decodeDig (d : DigCode) : encode (decodeDig d) = d.setWidth 8 := by
  revert d
  decide

/-- Each space's decoder reads a code that the encoder writes back, so it does on a byte that the space's format holds. -/
theorem encode_decodeLow {sp : Space} {w : Byte} (h : w.toNat < 2 ^ sp.width) : encode (decodeLow sp w) = w := by
  have hevt : ∀ e : Evt, encode (decodeEvt e) = e.setWidth 8 := by decide
  have hph : ∀ p : PhCode, encode (decodePh p) = p.setWidth 8 := by decide
  have hlow : (w.setWidth sp.width).setWidth 8 = w :=
    BitVec.eq_of_toNat_eq (by rw [BitVec.toNat_setWidth, BitVec.toNat_setWidth, Nat.mod_eq_of_lt h, Nat.mod_eq_of_lt w.isLt])
  cases sp with
  | evt => exact (hevt _).trans hlow
  | ph => exact (hph _).trans hlow
  | posx => exact (encode_decodePosx _).trans hlow
  | dig => exact (encode_decodeDig _).trans hlow

/-- Settles O2: the decoder's two branches, the first with the operation that the byte's low bits name. -/
theorem everyCodeIsOneOperation : Obligations.EveryCodeIsOneOperation := fun sp w =>
  ⟨fun h => ⟨decodeLow sp w, decode_of_fits h, wellFormedIn_iff.mpr (spaceOf_decodeLow sp w), encode_decodeLow h⟩,
    fun h => decode_of_not_fits (Nat.not_lt.mpr h)⟩

/-- Settles O3: each word is the code that the encoder writes for its operation. -/
theorem codesOfTheSpecDecode : Obligations.CodesOfTheSpecDecode :=
  ⟨encodingRoundTrips (.reset 1), encodingRoundTrips .tick, encodingRoundTrips .notick, encodingRoundTrips .hold,
    encodingRoundTrips (.recover 1), encodingRoundTrips (.seldecB2 1), encodingRoundTrips .seg9,
    encodingRoundTrips (.segRsvdA 1)⟩

/-! ### Totality (R75, R140) -/

/-- Settles O6: the completion of each operation, and of each edge. -/
theorem nothingStops : Obligations.NothingStops := ⟨exec_next, fun s => ⟨edgeNext s, step_next s⟩⟩

/-! ### The Digit Selector (R66, R100, R103) -/

theorem selDecode_pos_bit {b : Idx} (hb : b.toNat ≤ 2) (j : Idx) (k : Nat) :
    (selDecode (pos b j)).getLsbD k = decide (k = 4 * b.toNat + j.toNat) := by
  have hj := j.isLt
  have hle : 4 * b.toNat + j.toNat ≤ 11 := by omega
  simp only [selDecode_bit, pos_toNat, hle, and_true]

theorem selDecode_reserved (j : Idx) : selDecode (pos 3 j) = 0 := by
  have hge : ¬ (pos 3 j).toNat ≤ 11 := by
    rw [pos_toNat]
    exact Nat.not_le.mpr (Nat.lt_add_right _ (by decide))
  exact if_neg hge

/-- A selector row selects the position that is its code. -/
theorem exec_posx_code {i : Instr} (hi : spaceOf i = .posx) (s : State) :
    exec i s = .next (loadSel ((encode i).setWidth 4) s) := by
  have h0 : ∀ j : Idx, pos 0 j = (encode (.seldecB0 j)).setWidth 4 := by decide
  have h1 : ∀ j : Idx, pos 1 j = (encode (.seldecB1 j)).setWidth 4 := by decide
  have h2 : ∀ j : Idx, pos 2 j = (encode (.seldecB2 j)).setWidth 4 := by decide
  have h3 : ∀ j : Idx, pos 3 j = (encode (.seldecRsvd j)).setWidth 4 := by decide
  cases i <;> cases hi
  case seldecB0 j => rw [← h0]; rfl
  case seldecB1 j => rw [← h1]; rfl
  case seldecB2 j => rw [← h2]; rfl
  case seldecRsvd j => rw [← h3]; rfl

theorem exec_decodePosx (p : Posx) (s : State) : exec (decodePosx p) s = .next (loadSel p s) := by
  rw [exec_posx_code (spaceOf_decodePosx p), encode_decodePosx, BitVec.setWidth_setWidth_of_le p (by decide), BitVec.setWidth_eq]

/-- Settles O20: the rows load the decoder's value of their position. -/
theorem selectorRowsSelectOnePosition : Obligations.SelectorRowsSelectOnePosition := by
  refine ⟨fun j s => ⟨_, rfl, fun k => ?_⟩, fun j s => ⟨_, rfl, selDecode_pos_bit (b := 1) (by decide) j⟩,
    fun j s => ⟨_, rfl, selDecode_pos_bit (b := 2) (by decide) j⟩, fun j s => ?_⟩
  · have h := selDecode_pos_bit (b := 0) (by decide) j k
    rwa [show 4 * (0 : Idx).toNat + j.toNat = j.toNat from Nat.zero_add _] at h
  · exact congrArg (fun v => Host.Outcome.next (s.setSelOn v)) (selDecode_reserved j)

/-- Settles O21: the row and SELECT load the same value, which does not depend on what was selected. -/
theorem selectPerformsItsSelectorRow : Obligations.SelectPerformsItsSelectorRow := fun s =>
  ⟨loadSel (pos s.blk s.dig) s, exec_decodePosx _ s, rfl, exec_decodePosx _ _⟩

/-! ### The Segment Encoding Table (R63, R75) -/

/-- A table row lights the entry of the digit code that is its code. -/
theorem exec_dig_code {i : Instr} (hi : spaceOf i = .dig) (s : State) :
    exec i s = .next (loadSeg ((encode i).setWidth 4) s) := by
  have hA : ∀ x : BitVec 1, 0b101#3 ++ x = (encode (.segRsvdA x)).setWidth 4 := by decide
  have hB : ∀ x : BitVec 2, 0b11#2 ++ x = (encode (.segRsvdB x)).setWidth 4 := by decide
  cases i <;> cases hi
  case segRsvdA x => rw [← hA]; rfl
  case segRsvdB x => rw [← hB]; rfl
  all_goals rfl

theorem exec_decodeDig (d : DigCode) (s : State) : exec (decodeDig d) s = .next (loadSeg d s) := by
  rw [exec_dig_code (spaceOf_decodeDig d), encode_decodeDig, BitVec.setWidth_setWidth_of_le d (by decide), BitVec.setWidth_eq]

/-- A decimal digit's row is none of the reserved ones. -/
theorem decodeDig_ne_reserved {d : DigCode} (hd : d.toNat ≤ 9) :
    (∀ x, decodeDig d ≠ .segRsvdA x) ∧ (∀ x, decodeDig d ≠ .segRsvdB x) := by
  revert d
  decide

/-- Settles O23: DRIVE and the row light the same entry, and val mod 10 is a decimal digit. -/
theorem drivePerformsItsTableRow : Obligations.DrivePerformsItsTableRow := by
  intro s
  have hmod := digitOf_toNat s.val
  have hle : (digitOf s.val).toNat ≤ 9 := by omega
  exact ⟨digitOf s.val, loadSeg (digitOf s.val) s, quotient s.val, hmod, hle, exec_decodeDig _ s, rfl,
    decodeDig_ne_reserved hle⟩

theorem loadSeg_reserved {d : DigCode} (hd : 10 ≤ d.toNat) (s : State) : loadSeg d s = s.setSegOn 0 := by
  rw [loadSeg, segTable_reserved hd]

/-- Settles O22: each row lights its entry of the table; the reserved codes are above 9 whatever their ignored bits are. -/
theorem segmentRowsLightTheirPattern : Obligations.SegmentRowsLightTheirPattern := by
  have hA : ∀ x : BitVec 1, 10 ≤ (0b101#3 ++ x).toNat := by decide
  have hB : ∀ x : BitVec 2, 10 ≤ (0b11#2 ++ x).toNat := by decide
  refine ⟨fun s => ⟨entry0, rfl, by decide⟩, fun s => ⟨entry1, rfl, by decide⟩, fun s => ⟨entry8, rfl, by decide⟩,
    fun s => ⟨rfl, rfl, rfl, rfl, rfl, rfl, rfl⟩, fun n a b => ⟨rfl, rfl, rfl, rfl, rfl, rfl, rfl⟩,
    fun x s => ?_, fun x s => ?_⟩
  · exact congrArg Host.Outcome.next (loadSeg_reserved (hA x) s)
  · exact congrArg Host.Outcome.next (loadSeg_reserved (hB x) s)

/-! ### The pins (R70) -/

theorem pinBit_eq_xnor (level s : Bool) : pinBit level s = !(xor s level) := by
  cases level <;> cases s <;> rfl

theorem pinVec_bit_eq_xnor {w : Nat} (level : Bool) (v : BitVec w) {k : Nat} (hk : k < w) :
    (pinVec level v).getLsbD k = !(xor (v.getLsbD k) level) := by
  rw [pinVec_bit level v k hk, pinBit_eq_xnor]

theorem pinVec_false {w : Nat} (v : BitVec w) : pinVec false v = ~~~v := rfl

/-- Settles O24: the formula line by line, and the complement where the active level is 0. -/
theorem pinLevelsFollowThePolarity : Obligations.PinLevelsFollowThePolarity := by
  refine ⟨fun s k hk => pinVec_bit_eq_xnor _ _ hk, fun s k hk => pinVec_bit_eq_xnor _ _ hk, fun s => pinBit_eq_xnor _ _,
    fun s hlevel => ?_⟩
  rw [State.segO, hlevel, pinVec_false]
  exact ⟨fun h => by rw [h]; rfl, fun h => by rw [h]; rfl⟩

end Sys2Proof.Machine

namespace Sys2Proof.Machine

/-! ### The scan pass, composed from its micro-operations (R79, R81, R119) -/

/-- From the sequencing state `q`, in a build with SETTLE_CYCLES = `S`, the next edges with rst_i = 0 perform the
micro-operations `ops` in order and leave the sequencing state `q'`, whatever the other registers and the ticks are. -/
def Performs (S : Nat) (q : PhCode × Idx × Idx × Nat) (ops : List Instr) (q' : PhCode × Idx × Idx × Nat) : Prop :=
  ∀ s : State, s.cfg.settleCycles = S → s.sequencing = q → NoReset ops.length s →
    opsIn ops.length s = ops ∧ (after ops.length s).sequencing = q'

theorem sequencing_eq_iff {s : State} {p : PhCode} {b j : Idx} {n : Nat} :
    s.sequencing = (p, b, j, n) ↔ s.ph = p ∧ s.blk = b ∧ s.dig = j ∧ s.settle = n := by
  simp only [State.sequencing, Prod.mk.injEq]

theorem opsIn_add (m n : Nat) (s : State) : opsIn (m + n) s = opsIn m s ++ opsIn n (after m s) := by
  induction m generalizing s with
  | zero => rw [Nat.zero_add]; rfl
  | succ m ih => rw [Nat.succ_add, opsIn, ih]; rfl

section
variable {S : Nat} {q q₁ q' : PhCode × Idx × Idx × Nat}

theorem Performs.append {xs ys : List Instr} (hx : Performs S q xs q₁) (hy : Performs S q₁ ys q') :
    Performs S q (xs ++ ys) q' := by
  intro s hS hq h
  rw [List.length_append] at h ⊢
  obtain ⟨hxops, hmid⟩ := hx s hS hq (h.mono (Nat.le_add_right _ _))
  obtain ⟨hyops, hend⟩ := hy (after xs.length s) (by rw [after_cfg, hS]) hmid h.drop
  exact ⟨by rw [opsIn_add, hxops, hyops], by rw [after_add, hend]⟩

/-- One edge performs the micro-operation of its phase. -/
theorem performs_edge {i : Instr} (hi : decodePh q.1 = i)
    (hedge : ∀ s : State, s.cfg.settleCycles = S → s.sequencing = q → s.rstI = false → (edgeNext s).sequencing = q') :
    Performs S q [i] q' := by
  intro s hS hq h
  have hph : s.ph = q.1 := congrArg Prod.fst hq
  exact ⟨by rw [← hi, ← hph]; rfl, hedge s hS hq h.head⟩

end

section
variable (S : Nat) (b j : Idx) (n : Nat)

theorem performs_fetch : Performs S (0, b, j, n) [.fetch] (1, b, 0, n) := by
  refine performs_edge rfl fun s _ hq h => ?_
  obtain ⟨hp, hb, -, hn⟩ := sequencing_eq_iff.mp hq
  rw [edgeNext_fetch h hp]
  exact sequencing_eq_iff.mpr ⟨rfl, hb, rfl, hn⟩

theorem performs_blank : Performs S (1, b, j, n) [.blank] (2, b, j, n) := by
  refine performs_edge rfl fun s _ hq h => ?_
  obtain ⟨hp, hpos⟩ := sequencing_eq_iff.mp hq
  rw [edgeNext_blank h hp]
  exact sequencing_eq_iff.mpr ⟨rfl, hpos⟩

theorem performs_select : Performs S (2, b, j, n) [.select] (3, b, j, n) := by
  refine performs_edge rfl fun s _ hq h => ?_
  obtain ⟨hp, hpos⟩ := sequencing_eq_iff.mp hq
  rw [edgeNext_select h hp]
  exact sequencing_eq_iff.mpr ⟨rfl, hpos⟩

theorem performs_drive : Performs S (3, b, j, n) [.drive] (4, b, j, n) := by
  refine performs_edge rfl fun s _ hq h => ?_
  obtain ⟨hp, hpos⟩ := sequencing_eq_iff.mp hq
  rw [edgeNext_drive h hp]
  exact sequencing_eq_iff.mpr ⟨rfl, hpos⟩

theorem performs_aux : Performs S (5, b, j, n) [.aux] (0, 0, j, n) := by
  refine performs_edge rfl fun s _ hq h => ?_
  obtain ⟨hp, -, hj, hn⟩ := sequencing_eq_iff.mp hq
  rw [edgeNext_aux h hp]
  exact sequencing_eq_iff.mpr ⟨rfl, rfl, hj, hn⟩

end

section
variable {S : Nat} {b j : Idx} {q' : PhCode × Idx × Idx × Nat}

/-- A HOLD before the last one of a position counts. -/
theorem performs_hold_count {n : Nat} (hn : n < S - 1) : Performs S (4, b, j, n) [.hold] (4, b, j, n + 1) := by
  refine performs_edge rfl fun s hS hq h => ?_
  obtain ⟨hp, hb, hj, hs⟩ := sequencing_eq_iff.mp hq
  have hends : ¬ holdEnds s = true := by
    rw [holdEnds, hs, hS, decide_eq_true_iff]
    exact Nat.not_le.mpr hn
  rw [edgeNext_hold h hp, if_neg hends]
  exact sequencing_eq_iff.mpr ⟨hp, hb, hj, congrArg (· + 1) hs⟩

/-- The last HOLD of a position clears the count and advances. -/
theorem performs_hold_last (hadv : ∀ s : State, s.sequencing = (4, b, j, 0) → (advancePosition s).sequencing = q') :
    Performs S (4, b, j, S - 1) [.hold] q' := by
  refine performs_edge rfl fun s hS hq h => ?_
  obtain ⟨hp, hb, hj, hs⟩ := sequencing_eq_iff.mp hq
  have hends : holdEnds s = true := by simp [holdEnds, hs, hS]
  rw [edgeNext_hold h hp, if_pos hends]
  exact hadv (s.setSettle 0) (sequencing_eq_iff.mpr ⟨hp, hb, hj, rfl⟩)

theorem performs_hold_nextDigit (hj : j.toNat < 3) : Performs S (4, b, j, S - 1) [.hold] (1, b, j + 1, 0) := by
  refine performs_hold_last fun s hq => ?_
  obtain ⟨-, rfl, rfl, hs⟩ := sequencing_eq_iff.mp hq
  rw [advancePosition, if_pos hj]
  exact sequencing_eq_iff.mpr ⟨rfl, rfl, rfl, hs⟩

theorem performs_hold_nextBlock (hb : b.toNat < 2) : Performs S (4, b, 3, S - 1) [.hold] (0, b + 1, 3, 0) := by
  refine performs_hold_last fun s hq => ?_
  obtain ⟨-, rfl, hj, hs⟩ := sequencing_eq_iff.mp hq
  rw [advancePosition, if_neg (by simp [hj]), if_pos hb]
  exact sequencing_eq_iff.mpr ⟨rfl, rfl, hj, hs⟩

theorem performs_hold_toAux : Performs S (4, 2, 3, S - 1) [.hold] (5, 2, 3, 0) := by
  refine performs_hold_last fun s hq => ?_
  obtain ⟨-, hb, hj, hs⟩ := sequencing_eq_iff.mp hq
  rw [advancePosition, if_neg (by simp [hj]), if_neg (by simp [hb])]
  exact sequencing_eq_iff.mpr ⟨rfl, hb, hj, hs⟩

theorem performs_counting_holds {n : Nat} (hn : n ≤ S - 1) :
    Performs S (4, b, j, 0) (List.replicate n .hold) (4, b, j, n) := by
  induction n with
  | zero => exact fun s _ hq _ => ⟨rfl, hq⟩
  | succ n ih =>
    rw [List.replicate_succ']
    exact (ih (Nat.le_of_succ_le hn)).append (performs_hold_count hn)

/-- The whole hold of a position: SETTLE_CYCLES - 1 HOLDs that count and the one that advances. -/
theorem performs_holds (hS : 1 ≤ S) (hlast : Performs S (4, b, j, S - 1) [.hold] q') :
    Performs S (4, b, j, 0) (List.replicate S .hold) q' := by
  obtain ⟨n, rfl⟩ := Nat.exists_eq_add_of_le' hS
  rw [List.replicate_succ']
  exact (performs_counting_holds le_rfl).append hlast

/-- One digit, whose last HOLD leads to `q'`. -/
theorem performs_digitOps (hS : 1 ≤ S) (hlast : Performs S (4, b, j, S - 1) [.hold] q') :
    Performs S (1, b, j, 0) (digitOps S) q' :=
  (((performs_blank S b j 0).append (performs_select S b j 0)).append (performs_drive S b j 0)).append
    (performs_holds hS hlast)

/-- One block, whose last HOLD leads to `q'`. -/
theorem performs_blockOps (hS : 1 ≤ S) (hlast : Performs S (4, b, 3, S - 1) [.hold] q') :
    Performs S (0, b, j, 0) (blockOps S) q' := by
  have hdigit : ∀ i : Idx, i.toNat < 3 → Performs S (1, b, i, 0) (digitOps S) (1, b, i + 1, 0) :=
    fun i hi => performs_digitOps hS (performs_hold_nextDigit hi)
  exact (performs_fetch S b j 0).append <| (hdigit 0 (by decide)).append <| (hdigit 1 (by decide)).append <|
    (hdigit 2 (by decide)).append (performs_digitOps hS hlast)

/-- A pass starts at the FETCH of block 0, with any digit left over, and leaves digit 3 (R114 (d)). -/
theorem performs_passOps (hS : 1 ≤ S) : Performs S (0, 0, j, 0) (passOps S) (0, 0, 3, 0) := by
  have hblock : ∀ (a i : Idx), a.toNat < 2 → Performs S (0, a, i, 0) (blockOps S) (0, a + 1, 3, 0) :=
    fun a i ha => performs_blockOps hS (performs_hold_nextBlock ha)
  exact (hblock 0 j (by decide)).append <| (hblock 1 3 (by decide)).append <|
    (performs_blockOps hS performs_hold_toAux).append (performs_aux S 2 3 0)

end

theorem length_passOps (S : Nat) : (passOps S).length = 40 + 12 * S := by
  simp only [passOps, blockOps, digitOps, List.length_append, List.length_cons, List.length_replicate, List.length_nil]
  omega

/-- Settles O35: the pass is composed of its blocks, digits and micro-operations, each from the sequencing state the one before
it leaves. -/
theorem passIsTheSourcesSequence : Obligations.PassIsTheSourcesSequence := by
  intro s hS hp hb hs h
  rw [← length_passOps] at h ⊢
  obtain ⟨hops, hend⟩ := performs_passOps hS s rfl (sequencing_eq_iff.mpr ⟨hp, hb, rfl, hs⟩) h
  obtain ⟨hp', hb', -, hs'⟩ := sequencing_eq_iff.mp hend
  exact ⟨hops, hp', hb', hs'⟩

end Sys2Proof.Machine

namespace Sys2Proof.Machine

/-! ### One counter of a TICK (R90, R91) -/

/-- R90's loop body as it is printed, with the sum formed before the test. -/
theorem tickCounter_loop (c : Bool) (v : Dec) :
    if c = true ∧ 9999 < v.toNat + c.toNat then (tickCounter c v).1.toNat = 0 ∧ (tickCounter c v).2 = true
    else (tickCounter c v).1.toNat = v.toNat + c.toNat ∧ (tickCounter c v).2 = false := by
  have htest : (c = true ∧ v.toNat + 1 > Config.counterMax) ↔ (c = true ∧ 9999 < v.toNat + c.toNat) :=
    and_congr_right fun hc => by rw [hc]; rfl
  split
  next h => exact tickCounter_wraps c v (htest.mpr h)
  next h => exact tickCounter_toNat c v (h ∘ htest.mp)

/-- A TICK's counter and carry are a two-digit number of base 10000: the exact sum, nothing lost. -/
theorem tickCounter_sum {v : Dec} (c : Bool) (hv : v.toNat ≤ Config.counterMax) :
    (tickCounter c v).1.toNat + 10000 * (tickCounter c v).2.toNat = v.toNat + c.toNat := by
  by_cases hw : c = true ∧ v.toNat + 1 > Config.counterMax
  · obtain ⟨hzero, hcarry⟩ := tickCounter_wraps c v hw
    obtain ⟨rfl, hlt⟩ := hw
    have htop : v.toNat = 9999 := Nat.le_antisymm hv (Nat.le_of_lt_succ hlt)
    rw [hzero, hcarry, htop]
    rfl
  · obtain ⟨hsum, hcarry⟩ := tickCounter_toNat c v hw
    rw [hsum, hcarry]
    rfl

theorem tickCounter_eq_mod {v : Dec} (c : Bool) (hv : v.toNat ≤ Config.counterMax) :
    (tickCounter c v).1.toNat = (v.toNat + c.toNat) % 10000 := by
  have hlt : (tickCounter c v).1.toNat < 10000 := Nat.lt_succ_of_le (tickCounter_le c hv)
  rw [← tickCounter_sum c hv, Nat.add_mul_mod_self_left, Nat.mod_eq_of_lt hlt]

/-- c_(i+1) = c_i m_i (R91). -/
theorem tickCounter_carry {v : Dec} (c : Bool) (hv : v.toNat ≤ Config.counterMax) :
    (tickCounter c v).2.toNat = c.toNat * (if v.toNat = 9999 then 1 else 0) := by
  have hsum := tickCounter_sum c hv
  have hle : (tickCounter c v).1.toNat ≤ 9999 := tickCounter_le c hv
  have hv' : v.toNat ≤ 9999 := hv
  cases c with
  | false =>
    rw [Bool.toNat_false] at hsum ⊢
    omega
  | true =>
    rw [Bool.toNat_true] at hsum ⊢
    split <;> omega

/-! ### The bank after a TICK (R90 to R92) -/

/-- c_i (R90): the carry of a TICK into counter `i`. -/
def Bank.carryInto (b : Bank) : Nat → Bool
  | 0 => true
  | i + 1 => (tickCounter (b.carryInto i) (b.get (BitVec.ofNat 2 i))).2

/-- The carries tie R90's loop to the bank that the model writes in one piece. -/
theorem tickBank_get (b : Bank) {i : Nat} (hi : i < 4) :
    (tickBank b).get (BitVec.ofNat 2 i) = (tickCounter (b.carryInto i) (b.get (BitVec.ofNat 2 i))).1 :=
  match i, hi with
  | 0, _ | 1, _ | 2, _ | 3, _ => rfl

/-- The bank as one number (R92 (d), (f)). -/
def Bank.value (b : Bank) : Nat := b.c0.toNat + 10 ^ 4 * b.c1.toNat + 10 ^ 8 * b.c2.toNat + 10 ^ 12 * b.c3.toNat

theorem BankLegal.value_lt {b : Bank} (h : BankLegal b) : b.value < 10 ^ 16 := by
  obtain ⟨h0, h1, h2, h3⟩ := h
  simp only [Config.counterMax] at h0 h1 h2 h3
  unfold Bank.value
  omega

/-- The counters of a legal bank are the digits of its number, in base 10000. -/
theorem BankLegal.counters_eq {b : Bank} (h : BankLegal b) :
    b.c0.toNat = b.value % 10000 ∧ b.c1.toNat = b.value / 10 ^ 4 % 10000 ∧
    b.c2.toNat = b.value / 10 ^ 8 % 10000 ∧ b.c3.toNat = b.value / 10 ^ 12 % 10000 := by
  obtain ⟨h0, h1, h2, h3⟩ := h
  simp only [Config.counterMax] at h0 h1 h2 h3
  unfold Bank.value
  omega

/-- A TICK adds 1 modulo 10^16: the carries between the counters cancel, and the one out of counter 3 is lost (D4). -/
theorem Bank.value_tickBank {b : Bank} (h : BankLegal b) : (tickBank b).value = (b.value + 1) % 10 ^ 16 := by
  have hlt := h.tickBank.value_lt
  have s0 : (tickBank b).c0.toNat + 10000 * (b.carryInto 1).toNat = b.c0.toNat + 1 := tickCounter_sum _ h.c0
  have s1 : (tickBank b).c1.toNat + 10000 * (b.carryInto 2).toNat = b.c1.toNat + (b.carryInto 1).toNat :=
    tickCounter_sum _ h.c1
  have s2 : (tickBank b).c2.toNat + 10000 * (b.carryInto 3).toNat = b.c2.toNat + (b.carryInto 2).toNat :=
    tickCounter_sum _ h.c2
  have s3 : (tickBank b).c3.toNat + 10000 * (b.carryInto 4).toNat = b.c3.toNat + (b.carryInto 3).toNat :=
    tickCounter_sum _ h.c3
  have hsum : (tickBank b).value + 10 ^ 16 * (b.carryInto 4).toNat = b.value + 1 := by
    unfold value
    omega
  rw [← hsum, Nat.add_mul_mod_self_left, Nat.mod_eq_of_lt hlt]

theorem bankLegal_zero : BankLegal Bank.zero := ⟨Nat.zero_le _, Nat.zero_le _, Nat.zero_le _, Nat.zero_le _⟩

theorem BankLegal.iterate_tickBank {b : Bank} (h : BankLegal b) (k : Nat) : BankLegal (Machine.tickBank^[k] b) :=
  Function.Iterate.rec BankLegal h (fun _ => BankLegal.tickBank) k

theorem Bank.value_iterate_tickBank {b : Bank} (h : BankLegal b) (k : Nat) :
    (tickBank^[k] b).value = (b.value + k) % 10 ^ 16 := by
  induction k with
  | zero => exact (Nat.mod_eq_of_lt h.value_lt).symm
  | succ k ih =>
    rw [Function.iterate_succ_apply', value_tickBank (h.iterate_tickBank k), ih, Nat.mod_add_mod, Nat.add_assoc]

/-! ### The bank along a run (R96) -/

theorem bankAfter_eq_iterate (s : State) : bankAfter s = tickBank^[if s.tickI then 1 else 0] s.cnt := by
  unfold bankAfter
  split <;> rfl

theorem rearmO_of_run {s : State} (h : s.rstI = false) : s.rearmO = s.tickI := by
  rw [State.rearmO, h]
  rfl

/-- A run without RESET applies TICK's function to the bank once for each TICK, and does nothing else to it. -/
theorem after_cnt {n : Nat} {s : State} (h : NoReset n s) : (after n s).cnt = tickBank^[ticksIn n s] s.cnt := by
  induction n generalizing s with
  | zero => rfl
  | succ n ih =>
    rw [after, ih h.tail, edgeNext_cnt h.head, bankAfter_eq_iterate, ← Function.iterate_add_apply, ticksIn,
      rearmO_of_run h.head, Nat.add_comm]

/-- Settles O12: the run applies TICK `k` times to the zero bank, whose number is then `k` modulo 10^16; the counters are its
digits, and none of them reaches past 10^16. -/
theorem bankIsTheTickCount : Obligations.BankIsTheTickCount := by
  intro n s hzero hrun
  have hlegal := bankLegal_zero.iterate_tickBank (ticksIn n s)
  have hvalue : (tickBank^[ticksIn n s] Bank.zero).value = ticksIn n s % 10 ^ 16 := by
    rw [Bank.value_iterate_tickBank bankLegal_zero, show Bank.zero.value = 0 from rfl, Nat.zero_add]
  obtain ⟨d0, d1, d2, d3⟩ := hlegal.counters_eq
  rw [after_cnt hrun, hzero, d0, d1, d2, d3, hvalue]
  omega

/-- Settles O13: the final bank is a function of the first one and of the number of TICKs. -/
theorem bankDependsOnTicksAlone : Obligations.BankDependsOnTicksAlone := by
  intro m n s u hcnt hs hu hticks
  rw [after_cnt hs, after_cnt hu, hcnt, hticks]

/-- Settles O10: each counter takes its sum modulo 10000, and the carry into it is the product of the m_j below it. -/
theorem tickIsOneFormula : Obligations.TickIsOneFormula := by
  rintro s ⟨h0, h1, h2, h3⟩ m
  have k1 : (s.cnt.carryInto 1).toNat = m s.cnt.c0 := (tickCounter_carry true h0).trans (Nat.one_mul _)
  have k2 : (s.cnt.carryInto 2).toNat = m s.cnt.c0 * m s.cnt.c1 :=
    (tickCounter_carry _ h1).trans (congrArg (· * m s.cnt.c1) k1)
  have k3 : (s.cnt.carryInto 3).toNat = m s.cnt.c0 * m s.cnt.c1 * m s.cnt.c2 :=
    (tickCounter_carry _ h2).trans (congrArg (· * m s.cnt.c2) k2)
  rw [← k3, ← k2, ← k1]
  exact ⟨tickBank s.cnt, rfl, tickCounter_eq_mod _ h0, tickCounter_eq_mod _ h1, tickCounter_eq_mod _ h2,
    tickCounter_eq_mod _ h3⟩

/-- Settles O9: the loop's carries are `Bank.carryInto`, and its body is that of one counter. -/
theorem tickAdvancesTheBank : Obligations.TickAdvancesTheBank := by
  refine ⟨fun s => ⟨tickBank s.cnt, s.cnt.carryInto, rfl, rfl, fun i hi => ?_⟩, fun s hrst htick => ?_⟩
  · rw [tickBank_get s.cnt hi]
    exact tickCounter_loop _ _
  · obtain ⟨hdecode, hpins⟩ := rearmMarksExactlyTheTicks s
    have hrearm := hpins.mpr ⟨hrst, htick⟩
    exact ⟨hrearm, hdecode.mp hrearm⟩

/-- Settles O11: NOTICK writes the bank back as it is, and so does the edge that performs it. -/
theorem notickKeepsTheBank : Obligations.NotickKeepsTheBank := by
  refine ⟨fun s => rfl, fun s hrst htick => ⟨?_, ?_, edgeNext s, step_next s, ?_⟩⟩
  · rw [decodeEvt_evt, hrst, htick]
    rfl
  · rw [rearmO_of_run hrst, htick]
  · rw [edgeNext_cnt hrst, bankAfter, htick]
    rfl

end Sys2Proof.Machine

namespace Sys2Proof.Machine

/-! ### The micro-operations' results (R110 to R116) -/

theorem Bank.get_toNat (b : Bank) (i : Idx) :
    (b.get i).toNat = [b.c0.toNat, b.c1.toNat, b.c2.toNat, b.c3.toNat].getD i.toNat 0 := by
  have hi : i = 0 ∨ i = 1 ∨ i = 2 ∨ i = 3 := by revert i; decide
  obtain rfl | rfl | rfl | rfl := hi <;> rfl

/-- Settles O14: FETCH's operands are those of the state before the edge, in `exec` and in `step` alike. -/
theorem fetchAndBlankResults : Obligations.FetchAndBlankResults := by
  refine ⟨fun s => ⟨s.cnt.get s.blk, s.cnt.get_toNat s.blk, rfl, fun h hp => ⟨edgeNext s, step_next s, ?_⟩⟩,
    fun s => rfl, rfl, rfl⟩
  rw [edgeNext_fetch h hp]
  rfl

/-- Settles O15: the decoder's bit at the position, and its empty value for the reserved block. -/
theorem selectMovesTheSelection : Obligations.SelectMovesTheSelection := by
  refine ⟨rfl, fun s => ⟨selDecode (pos s.blk s.dig), rfl, fun hb => selDecode_pos_bit hb s.dig, fun hb => ?_⟩⟩
  have hblk : s.blk = 3 := BitVec.eq_of_toNat_eq hb
  rw [hblk]
  exact selDecode_reserved s.dig

/-- Settles O16: both operands of DRIVE are exact at every value of val. -/
theorem driveLightsTheNextDigit : Obligations.DriveLightsTheNextDigit :=
  ⟨rfl, fun s => ⟨digitOf s.val, quotient s.val, digitOf_toNat s.val, quotient_toNat s.val, rfl⟩⟩

/-- An edge at a reserved phase performs RECOVER (R116). -/
theorem edgeNext_recover {s : State} {x : BitVec 1} (h : s.rstI = false) (hp : decodePh s.ph = .recover x) :
    edgeNext s = s.closeEdge (((((s.setPh 0).setBlk 0).setDig 0).setSettle 0).setBank (bankAfter s)) :=
  edgeNext_run h (by rw [hp]; rfl)

theorem exec_aux_eq (s : State) :
    exec .aux s = .next { s with auxOn := decide (s.cnt.c1.toNat % 2 = 1), blk := 0, ph := 0 } := by
  rw [← parity_eq]
  rfl

/-- Settles O18: bit 0 is the parity; the edge's part is that of the indicator's rule. -/
theorem auxAndRecoverResults : Obligations.AuxAndRecoverResults := by
  refine ⟨exec_aux_eq, fun s h hp => ?_, fun x s => rfl, rfl, rfl, rfl⟩
  obtain ⟨t, ht, haux, -⟩ := indicatorChangesOnlyAtAux s h
  exact ⟨t, ht, haux hp⟩

/-! ### HOLD (R114) -/

theorem holdEnds_iff (s : State) : holdEnds s = true ↔ s.settle ≥ s.cfg.settleCycles - 1 := decide_eq_true_iff

theorem exec_hold_counts {s : State} (h : ¬ s.settle ≥ s.cfg.settleCycles - 1) :
    exec .hold s = .next (s.setSettle (s.settle + 1)) :=
  congrArg Host.Outcome.next (if_neg (h ∘ (holdEnds_iff s).mp))

section
variable {s : State} (he : s.settle ≥ s.cfg.settleCycles - 1)
include he

theorem exec_hold_ends : exec .hold s = .next (advancePosition (s.setSettle 0)) :=
  congrArg Host.Outcome.next (if_pos ((holdEnds_iff s).mpr he))

theorem exec_hold_nextDigit (hd : s.dig.toNat < 3) :
    exec .hold s = .next (((s.setSettle 0).setDig (s.dig + 1)).setPh 1) :=
  (exec_hold_ends he).trans (congrArg Host.Outcome.next (if_pos hd))

theorem exec_hold_nextBlock (hd : ¬ s.dig.toNat < 3) (hb : s.blk.toNat < 2) :
    exec .hold s = .next (((s.setSettle 0).setBlk (s.blk + 1)).setPh 0) :=
  (exec_hold_ends he).trans (congrArg Host.Outcome.next ((if_neg hd).trans (if_pos hb)))

theorem exec_hold_toAux (hd : ¬ s.dig.toNat < 3) (hb : ¬ s.blk.toNat < 2) :
    exec .hold s = .next ((s.setSettle 0).setPh 5) :=
  (exec_hold_ends he).trans (congrArg Host.Outcome.next ((if_neg hd).trans (if_neg hb)))

end

/-- Settles O17: the tests in the rule's order, each outcome by its equation. -/
theorem holdCountsThenAdvances : Obligations.HoldCountsThenAdvances := by
  refine ⟨rfl, fun s => ?_⟩
  split_ifs with he hd hb
  · exact ⟨s.dig + 1, idx_succ_toNat hd, exec_hold_nextDigit he hd⟩
  · exact ⟨s.blk + 1, idx_succ_toNat (hb.trans (by decide)), exec_hold_nextBlock he hd hb⟩
  · exact exec_hold_toAux he hd hb
  · exact exec_hold_counts he

/-! ### The successor of the sequencing state (R114, R119) -/

/-- HOLD's part of R119's table, the count of R114 included: what an edge makes of `(4, b, j, n)` in a build with
SETTLE_CYCLES = `S`. -/
def holdNext (S : Nat) (b j : Idx) (n : Nat) : PhCode × Idx × Idx × Nat :=
  if n ≥ S - 1 then
    if j.toNat < 3 then (1, b, j + 1, 0)
    else if b.toNat < 2 then (0, b + 1, j, 0)
    else (5, b, j, 0)
  else (4, b, j, n + 1)

/-- R119's table as a function on every sequencing state, the reserved ones included. -/
def seqNext (S : Nat) : PhCode × Idx × Idx × Nat → PhCode × Idx × Idx × Nat
  | (p, b, j, n) =>
    if p = 0 then (1, b, 0, n)
    else if p = 1 then (2, b, j, n)
    else if p = 2 then (3, b, j, n)
    else if p = 3 then (4, b, j, n)
    else if p = 4 then holdNext S b j n
    else if p = 5 then (0, 0, j, n)
    else (0, 0, 0, 0)

section
variable {s : State} (h : s.rstI = false)
include h

theorem edgeNext_sequencing_of_hold (hp : s.ph = 4) :
    (edgeNext s).sequencing = holdNext s.cfg.settleCycles s.blk s.dig s.settle := by
  have hop : decodePh s.ph = .hold := by rw [hp]; rfl
  unfold holdNext
  split_ifs with he hd hb
  · rw [edgeNext_run h ((congrArg (exec · s) hop).trans (exec_hold_nextDigit he hd))]
    rfl
  · rw [edgeNext_run h ((congrArg (exec · s) hop).trans (exec_hold_nextBlock he hd hb))]
    rfl
  · rw [edgeNext_run h ((congrArg (exec · s) hop).trans (exec_hold_toAux he hd hb))]
    rfl
  · rw [edgeNext_run h ((congrArg (exec · s) hop).trans (exec_hold_counts he)), ← hp]
    rfl

/-- The sequencing of an edge with rst_i = 0 reads nothing but the sequencing state and SETTLE_CYCLES (R117). -/
theorem edgeNext_sequencing : (edgeNext s).sequencing = seqNext s.cfg.settleCycles s.sequencing := by
  show _ = seqNext s.cfg.settleCycles (s.ph, s.blk, s.dig, s.settle)
  obtain hp | hp | hp | hp | hp | hp | hp | hp := phase_cases s.ph
  · rw [edgeNext_fetch h hp, hp]; rfl
  · rw [edgeNext_blank h hp, hp]; rfl
  · rw [edgeNext_select h hp, hp]; rfl
  · rw [edgeNext_drive h hp, hp]; rfl
  · rw [edgeNext_sequencing_of_hold h hp, hp]; rfl
  · rw [edgeNext_aux h hp, hp]; rfl
  · rw [edgeNext_recover (x := 0) h (by rw [hp]; rfl), hp]; rfl
  · rw [edgeNext_recover (x := 1) h (by rw [hp]; rfl), hp]; rfl

/-- R119's row of a phase. -/
theorem edgeNext_sequencing_of_ph {p : PhCode} (hp : s.ph = p) :
    (edgeNext s).sequencing = seqNext s.cfg.settleCycles (p, s.blk, s.dig, s.settle) := by
  rw [edgeNext_sequencing h, ← hp]
  rfl

end

theorem after_sequencing {n : Nat} {s : State} (h : NoReset n s) :
    (after n s).sequencing = (seqNext s.cfg.settleCycles)^[n] s.sequencing := by
  induction n generalizing s with
  | zero => rfl
  | succ n ih => rw [after, ih h.tail, edgeNext_cfg, edgeNext_sequencing h.head, Function.iterate_succ_apply]

/-- Settles O33: the final sequencing state is a function of the first one and of SETTLE_CYCLES. -/
theorem sequencingIgnoresTheTicks : Obligations.SequencingIgnoresTheTicks := by
  intro n s u hq hS hs hu
  rw [after_sequencing hs, after_sequencing hu, hq, hS]

/-! ### The rows of R119's table -/

section
variable {S n : Nat} {b j : Idx}

theorem holdNext_counts (hn : n < S - 1) : holdNext S b j n = (4, b, j, n + 1) := if_neg (Nat.not_le.mpr hn)

theorem holdNext_nextDigit (hn : n ≥ S - 1) (hj : j.toNat < 3) : holdNext S b j n = (1, b, j + 1, 0) :=
  (if_pos hn).trans (if_pos hj)

theorem holdNext_nextBlock (hn : n ≥ S - 1) (hj : j = 3) (hb : b.toNat < 2) : holdNext S b j n = (0, b + 1, 3, 0) := by
  subst hj
  exact (if_pos hn).trans (if_pos hb)

theorem holdNext_toAux (hn : n ≥ S - 1) (hj : j = 3) (hb : 2 ≤ b.toNat) : holdNext S b j n = (5, b, 3, 0) := by
  subst hj
  exact (if_pos hn).trans (if_neg (Nat.not_lt.mpr hb))

end

theorem position_of_sequencing {s : State} {p : PhCode} {b j : Idx} {n : Nat} (h : s.sequencing = (p, b, j, n)) :
    s.ph = p ∧ s.blk = b ∧ s.dig = j := by
  obtain ⟨hp, hb, hj, -⟩ := sequencing_eq_iff.mp h
  exact ⟨hp, hb, hj⟩

/-- Settles O19: the rows of `seqNext`, those of HOLD by its tests. The bound on blk is not needed. -/
theorem successorOfTheSequencing : Obligations.SuccessorOfTheSequencing := by
  intro s h _
  have row {p : PhCode} (hp : s.ph = p) := edgeNext_sequencing_of_ph h hp
  have hold := edgeNext_sequencing_of_hold h
  refine ⟨edgeNext s, step_next s, fun hp => position_of_sequencing (row hp), fun hp => position_of_sequencing (row hp),
    fun hp => position_of_sequencing (row hp), fun hp => position_of_sequencing (row hp), fun hp hn => ?_,
    fun hp hn hd => ?_, fun hp hn hd hb => ?_, fun hp hn hd hb => ?_, fun hp => position_of_sequencing (row hp),
    fun hp => ?_⟩
  · exact position_of_sequencing ((hold hp).trans (holdNext_counts hn))
  · obtain ⟨hph, hblk, hdig⟩ := position_of_sequencing ((hold hp).trans (holdNext_nextDigit hn hd))
    exact ⟨hph, hblk, by rw [hdig]; exact idx_succ_toNat hd⟩
  · have hd3 : s.dig = 3 := BitVec.eq_of_toNat_eq hd
    obtain ⟨hph, hblk, hdig⟩ := position_of_sequencing ((hold hp).trans (holdNext_nextBlock hn hd3 hb))
    exact ⟨hph, by rw [hblk]; exact idx_succ_toNat (hb.trans (by decide)), hdig⟩
  · have hd3 : s.dig = 3 := BitVec.eq_of_toNat_eq hd
    exact position_of_sequencing ((hold hp).trans (holdNext_toAux hn hd3 hb))
  · have hreserved : s.ph = 6 ∨ s.ph = 7 := by
      revert hp
      generalize s.ph = p
      revert p
      decide
    obtain hp | hp := hreserved <;> exact position_of_sequencing (row hp)

/-! ### The period of the sequencing (R181) -/

section
variable {S : Nat} {s : State} {j : Idx}

theorem after_passOps (hS : 1 ≤ S) (hcfg : s.cfg.settleCycles = S) (hq : s.sequencing = (0, 0, j, 0))
    (h : NoReset (40 + 12 * S) s) : (after (40 + 12 * S) s).sequencing = (0, 0, 3, 0) := by
  rw [← length_passOps] at h ⊢
  exact (performs_passOps hS s hcfg hq h).2

/-- Every pass but the first starts with digit 3 left over (log entry 12). -/
theorem after_passes (hS : 1 ≤ S) (hcfg : s.cfg.settleCycles = S) (hq : s.sequencing = (0, 0, j, 0)) (m : Nat)
    (h : NoReset ((40 + 12 * S) * (m + 1)) s) : (after ((40 + 12 * S) * (m + 1)) s).sequencing = (0, 0, 3, 0) := by
  induction m with
  | zero =>
    rw [Nat.zero_add, Nat.mul_one] at h ⊢
    exact after_passOps hS hcfg hq h
  | succ m ih =>
    rw [Nat.mul_succ] at h ⊢
    rw [after_add]
    exact after_passOps hS (by rw [after_cfg, hcfg]) (ih (h.mono (Nat.le_add_right _ _))) h.drop

end

/-- Settles O44: the excepted cycles are the ends of whole passes. -/
theorem digIsThreeAtEveryLaterPassStart : Obligations.DigIsThreeAtEveryLaterPassStart := by
  intro n s hS hq h hmod
  obtain ⟨m, rfl⟩ := Nat.dvd_of_mod_eq_zero hmod
  cases m with
  | zero => exact ⟨fun _ => hq, fun hne => absurd (Nat.mul_zero _) hne⟩
  | succ m =>
    have hne : (40 + 12 * s.cfg.settleCycles) * (m + 1) ≠ 0 := Nat.mul_ne_zero (by omega) (Nat.succ_ne_zero m)
    exact ⟨fun h0 => absurd h0 hne, fun _ => after_passes hS rfl hq m h⟩

/-- FETCH clears the digit index, so from the cycle after it the sequencing does not depend on the digit left over. -/
theorem after_succ_sequencing_of_fetch {s u : State} {b i j : Idx} {n r : Nat} (hs : s.sequencing = (0, b, i, n))
    (hu : u.sequencing = (0, b, j, n)) (hS : s.cfg = u.cfg) (hrs : NoReset (r + 1) s) (hru : NoReset (r + 1) u) :
    (after (r + 1) s).sequencing = (after (r + 1) u).sequencing := by
  rw [after_sequencing hrs, after_sequencing hru, Function.iterate_succ_apply, Function.iterate_succ_apply, hs, hu, hS]
  rfl

/-- Cycle `r` of pass `m` against cycle `r` of the first pass. The two passes start with different digits left over. -/
theorem sequencing_of_later_pass {s : State} (hS : 1 ≤ s.cfg.settleCycles) (hq : s.sequencing = (0, 0, 0, 0)) (m r : Nat)
    (h : NoReset ((40 + 12 * s.cfg.settleCycles) * m + r) s) :
    let t := after ((40 + 12 * s.cfg.settleCycles) * m + r) s
    let u := after r s
    t.ph = u.ph ∧ t.blk = u.blk ∧ t.settle = u.settle ∧ (r ≠ 0 → t.dig = u.dig) := by
  cases m with
  | zero =>
    rw [Nat.mul_zero, Nat.zero_add]
    exact ⟨rfl, rfl, rfl, fun _ => rfl⟩
  | succ m =>
    have hstart := after_passes hS rfl hq m (h.mono (Nat.le_add_right _ _))
    rw [after_add]
    cases r with
    | zero =>
      obtain ⟨hph, hblk, -, hset⟩ := sequencing_eq_iff.mp hstart
      obtain ⟨hph0, hblk0, -, hset0⟩ := sequencing_eq_iff.mp hq
      exact ⟨hph.trans hph0.symm, hblk.trans hblk0.symm, hset.trans hset0.symm, fun h0 => absurd rfl h0⟩
    | succ r =>
      have hsame := after_succ_sequencing_of_fetch hstart hq (after_cfg _ s) h.drop (h.mono (Nat.le_add_left _ _))
      obtain ⟨hph, hblk, hdig, hset⟩ := sequencing_eq_iff.mp hsame
      exact ⟨hph, hblk, hset, fun _ => hdig⟩

/-- Settles O36: cycle n is cycle n mod the pass length of pass n div the pass length. -/
theorem sequencingIsPeriodic : Obligations.SequencingIsPeriodic := by
  intro n s hS hq h
  have hn := Nat.div_add_mod n (40 + 12 * s.cfg.settleCycles)
  have hpass := sequencing_of_later_pass hS hq (n / (40 + 12 * s.cfg.settleCycles)) (n % (40 + 12 * s.cfg.settleCycles))
    (by rwa [hn])
  rwa [hn] at hpass

end Sys2Proof.Machine

namespace Sys2Proof.Machine

/-! ### Within one pass (R127, R176) -/

theorem blockCycles_pos (S : Nat) : 0 < blockCycles S := Nat.lt_of_lt_of_le Nat.zero_lt_one (Nat.le_add_right 1 _)

/-- Between its FETCH and the next one a block's cycles are inside it. -/
theorem SeqLegal.passIndex_in_block {s : State} (hl : SeqLegal s) (h0 : s.ph ≠ 0) (h5 : s.ph ≠ 5) :
    ∃ o, 0 < o ∧ o < blockCycles s.cfg.settleCycles ∧ passIndex s = s.blk.toNat * blockCycles s.cfg.settleCycles + o := by
  have hS := hl.params
  have hj := s.dig.isLt
  have hset := hl.settle
  have hdig : s.dig.toNat * digitCycles s.cfg.settleCycles ≤ 3 * digitCycles s.cfg.settleCycles :=
    Nat.mul_le_mul_right _ (by omega)
  have hD : digitCycles s.cfg.settleCycles = 3 + s.cfg.settleCycles := rfl
  have hB : blockCycles s.cfg.settleCycles = 1 + 4 * digitCycles s.cfg.settleCycles := rfl
  refine ⟨passIndex s - s.blk.toNat * blockCycles s.cfg.settleCycles, ?_⟩
  obtain hp | hp | hp | hp | hp | hp := phase_cases_legal hl.ph
  on_goal 6 => exact absurd hp h5
  on_goal 1 => exact absurd hp h0
  all_goals
    simp [passIndex, hp]
    omega

/-- The places that whole blocks lead to are those of FETCH and AUX. -/
theorem SeqLegal.passIndex_dvd_iff {s : State} (hl : SeqLegal s) :
    blockCycles s.cfg.settleCycles ∣ passIndex s ↔ s.ph = 0 ∨ s.ph = 5 := by
  obtain ⟨hfetch, haux⟩ := passIndex_phase s
  constructor
  · intro hdvd
    by_contra hne
    obtain ⟨h0, h5⟩ := not_or.mp hne
    obtain ⟨o, hpos, hlt, ho⟩ := hl.passIndex_in_block h0 h5
    rw [ho, Nat.dvd_add_right (Nat.dvd_mul_left _ _)] at hdvd
    exact Nat.not_dvd_of_pos_of_lt hpos hlt hdvd
  · rintro (hp | hp)
    · rw [hfetch hp]
      exact Nat.dvd_mul_left _ _
    · rw [haux hp]
      exact Nat.dvd_mul_left _ _

/-- The place `b` blocks into the pass is the FETCH of block `b`. -/
theorem SeqLegal.fetch_of_passIndex {s : State} (hl : SeqLegal s) {b : Idx} (hb : b.toNat ≤ 2)
    (hi : passIndex s = b.toNat * blockCycles s.cfg.settleCycles) : s.ph = 0 ∧ s.blk = b := by
  obtain ⟨hfetch, haux⟩ := passIndex_phase s
  have hcancel {m n : Nat} := (Nat.mul_left_inj (b := m) (c := n) (blockCycles_pos s.cfg.settleCycles).ne').mp
  obtain hp | hp := hl.passIndex_dvd_iff.mp (hi ▸ Nat.dvd_mul_left _ _)
  · exact ⟨hp, BitVec.eq_of_toNat_eq (hcancel ((hfetch hp).symm.trans hi))⟩
  · have h3 : 3 = b.toNat := hcancel ((haux hp).symm.trans hi)
    omega

/-- From any legal state a pass without RESET comes through every place. -/
theorem SeqLegal.reaches {s : State} (hl : SeqLegal s) (h : NoReset (passCycles s.cfg.settleCycles) s) {i : Nat}
    (hi : i < passCycles s.cfg.settleCycles) :
    ∃ k, k < passCycles s.cfg.settleCycles ∧ SeqLegal (after k s) ∧ passIndex (after k s) = i := by
  obtain ⟨hlt, -⟩ := passIndex_lt hl
  have hk : ∃ k, k < passCycles s.cfg.settleCycles ∧ (passIndex s + k) % passCycles s.cfg.settleCycles = i := by
    obtain hle | hgt := Nat.lt_or_ge i (passIndex s) |>.symm
    · exact ⟨i - passIndex s, by omega, by rw [Nat.add_sub_of_le hle, Nat.mod_eq_of_lt hi]⟩
    · refine ⟨i + passCycles s.cfg.settleCycles - passIndex s, by omega, ?_⟩
      rw [Nat.add_sub_of_le (by omega), Nat.add_mod_right, Nat.mod_eq_of_lt hi]
  obtain ⟨k, hk, hmod⟩ := hk
  obtain ⟨hlegal, hplace⟩ := passIndex_after hl (h.mono hk.le)
  exact ⟨k, hk, hlegal, hplace.trans hmod⟩

/-- Settles O40: the places of the three FETCHes and of AUX are all in the pass. -/
theorem everyBlockIsSampledWithinOnePass : Obligations.EveryBlockIsSampledWithinOnePass := by
  intro s hs h
  refine ⟨fun b hb => ?_, ?_⟩
  · have hle : b.toNat * blockCycles s.cfg.settleCycles ≤ 2 * blockCycles s.cfg.settleCycles := Nat.mul_le_mul_right _ hb
    have hpos := blockCycles_pos s.cfg.settleCycles
    have hlt : b.toNat * blockCycles s.cfg.settleCycles < passCycles s.cfg.settleCycles := by
      unfold passCycles
      omega
    obtain ⟨k, hk, hlegal, hplace⟩ := hs.seqLegal.reaches h hlt
    exact ⟨k, hk, hlegal.fetch_of_passIndex hb (by rw [hplace, after_cfg])⟩
  · obtain ⟨k, hk, hlegal, hplace⟩ := hs.seqLegal.reaches h (Nat.lt_succ_self (3 * blockCycles s.cfg.settleCycles))
    exact ⟨k, hk, (passIndex_lt hlegal).2.mp (by rw [hplace, after_cfg])⟩

/-! ### Two runs of one block (R125) -/

/-- No FETCH is due inside a block. -/
theorem ph_ne_zero_in_block {s : State} (hl : SeqLegal s) (hp : s.ph = 0) {k : Nat} (h0 : 0 < k)
    (hk : k < blockCycles s.cfg.settleCycles) (h : NoReset k s) : (after k s).ph ≠ 0 := by
  obtain ⟨hlegal, hplace⟩ := passIndex_after hl h
  have hb : s.blk.toNat * blockCycles s.cfg.settleCycles ≤ 2 * blockCycles s.cfg.settleCycles :=
    Nat.mul_le_mul_right _ hl.blk
  have hlt : s.blk.toNat * blockCycles s.cfg.settleCycles + k < passCycles s.cfg.settleCycles := by
    unfold passCycles
    omega
  rw [(passIndex_phase s).1 hp, Nat.mod_eq_of_lt hlt] at hplace
  intro hfetch
  have hdvd := hlegal.passIndex_dvd_iff.mpr (.inl hfetch)
  rw [hplace, after_cfg, Nat.dvd_add_right (Nat.dvd_mul_left _ _)] at hdvd
  exact Nat.not_dvd_of_pos_of_lt h0 hk hdvd

/-- Two states of equal builds that agree on everything that decides what the rest of a block shows. -/
structure BlockAlike (s u : State) : Prop where
  cfg : s.cfg = u.cfg
  sequencing : s.sequencing = u.sequencing
  val : s.val = u.val

section
variable {s u : State} (hs : s.rstI = false) (hu : u.rstI = false)
include hs hu

/-- An edge that samples no counter keeps the agreement. -/
theorem BlockAlike.edge (ha : BlockAlike s u) (h0 : s.ph ≠ 0) : BlockAlike (edgeNext s) (edgeNext u) where
  cfg := by rw [edgeNext_cfg, edgeNext_cfg, ha.cfg]
  sequencing := by rw [edgeNext_sequencing hs, edgeNext_sequencing hu, ha.sequencing, ha.cfg]
  val := by
    have hph : u.ph = s.ph := congrArg Prod.fst ha.sequencing.symm
    by_cases h3 : s.ph = 3
    · rw [edgeNext_drive hs h3, edgeNext_drive hu (hph.trans h3)]
      exact congrArg quotient ha.val
    · rw [edgeNext_val_of_ne hs h0 h3, edgeNext_val_of_ne hu (hph ▸ h0) (hph ▸ h3), ha.val]

/-- A FETCH of equal counters brings the agreement about, whatever digit was left over. -/
theorem blockAlike_of_fetch (hcfg : s.cfg = u.cfg) (hps : s.ph = 0) (hpu : u.ph = 0) (hblk : s.blk = u.blk)
    (hset : s.settle = u.settle) (hcnt : s.cnt.get s.blk = u.cnt.get u.blk) : BlockAlike (edgeNext s) (edgeNext u) where
  cfg := by rw [edgeNext_cfg, edgeNext_cfg, hcfg]
  sequencing := by rw [edgeNext_sequencing_of_ph hs hps, edgeNext_sequencing_of_ph hu hpu, hblk, hset]; rfl
  val := by rw [edgeNext_fetch hs hps, edgeNext_fetch hu hpu]; exact hcnt

/-- BLANK makes the segments agree, and every edge keeps that. -/
theorem BlockAlike.segOn_edge (ha : BlockAlike s u) (h : s.ph = 1 ∨ s.segOn = u.segOn) :
    (edgeNext s).segOn = (edgeNext u).segOn := by
  have hph : u.ph = s.ph := congrArg Prod.fst ha.sequencing.symm
  by_cases h1 : s.ph = 1
  · rw [edgeNext_blank hs h1, edgeNext_blank hu (hph.trans h1)]
    rfl
  by_cases h3 : s.ph = 3
  · rw [edgeNext_drive hs h3, edgeNext_drive hu (hph.trans h3)]
    show segTable s.cfg (digitOf s.val) = segTable u.cfg (digitOf u.val)
    rw [ha.cfg, ha.val]
  · rw [edgeNext_segOn_of_ne hs h1 h3, edgeNext_segOn_of_ne hu (hph ▸ h1) (hph ▸ h3)]
    exact h.resolve_left h1

/-- SELECT makes the selections agree, and every edge keeps that. -/
theorem BlockAlike.selOn_edge (ha : BlockAlike s u) (h : s.ph = 2 ∨ s.selOn = u.selOn) :
    (edgeNext s).selOn = (edgeNext u).selOn := by
  obtain ⟨hph, hblk, hdig, -⟩ := sequencing_eq_iff.mp ha.sequencing.symm
  by_cases h2 : s.ph = 2
  · rw [edgeNext_select hs h2, edgeNext_select hu (hph.trans h2)]
    show selDecode (pos s.blk s.dig) = selDecode (pos u.blk u.dig)
    rw [hblk, hdig]
  · rw [edgeNext_selOn_of_ne hs h2, edgeNext_selOn_of_ne hu (hph ▸ h2)]
    exact h.resolve_left h2

end

theorem seqLegal_of_fetch {s : State} (hS : 1 ≤ s.cfg.settleCycles) (hp : s.ph = 0) (hb : s.blk.toNat ≤ 2)
    (hset : s.settle = 0) : SeqLegal s where
  params := hS
  ph := by rw [hp]; exact Nat.zero_le _
  blk := hb
  settle := by rw [hset]; exact Nat.zero_le _
  idle := fun _ => hset

/-- Settles O38: the two runs agree on what decides the picture from the cycle after the FETCH on, on the segments from the
cycle after the first BLANK on, and on the selection from the cycle after the first SELECT on. -/
theorem renderIsPureInItsOperands : Obligations.RenderIsPureInItsOperands := by
  intro s u hcfg hS hps hpu hss hsu hblk hb hcnt hs hu
  have hl := seqLegal_of_fetch hS hps hb hss
  have hB : 4 ≤ blockCycles s.cfg.settleCycles := by unfold blockCycles digitCycles; omega
  have alike : ∀ k, 1 ≤ k → k ≤ blockCycles s.cfg.settleCycles → BlockAlike (after k s) (after k u) := by
    refine Nat.le_induction (fun h => ?_) fun k h1 ih hk => ?_
    · exact blockAlike_of_fetch (hs 0 h) (hu 0 h) hcfg hps hpu hblk (hss.trans hsu.symm) hcnt
    · rw [after_succ, after_succ]
      exact (ih (by omega)).edge (hs k hk) (hu k hk) (ph_ne_zero_in_block hl hps h1 hk (hs.mono (by omega)))
  have hp1 : (after 1 s).ph = 1 := (congrArg State.ph (edgeNext_fetch (hs 0 (by omega)) hps)).trans rfl
  have hp2 : (after 2 s).ph = 2 := (congrArg State.ph (edgeNext_blank (hs 1 (by omega)) hp1)).trans rfl
  have seg : ∀ k, 2 ≤ k → k ≤ blockCycles s.cfg.settleCycles → (after k s).segOn = (after k u).segOn := by
    refine Nat.le_induction (fun h => ?_) fun k h2 ih hk => ?_
    · exact (alike 1 le_rfl (by omega)).segOn_edge (hs 1 h) (hu 1 h) (.inl hp1)
    · rw [after_succ, after_succ]
      exact (alike k (by omega) (by omega)).segOn_edge (hs k hk) (hu k hk) (.inr (ih (by omega)))
  have sel : ∀ k, 3 ≤ k → k ≤ blockCycles s.cfg.settleCycles → (after k s).selOn = (after k u).selOn := by
    refine Nat.le_induction (fun h => ?_) fun k h3 ih hk => ?_
    · exact (alike 2 (by omega) (by omega)).selOn_edge (hs 2 h) (hu 2 h) (.inl hp2)
    · rw [after_succ, after_succ]
      exact (alike k (by omega) (by omega)).selOn_edge (hs k hk) (hu k hk) (.inr (ih (by omega)))
  exact fun k h3 hk => ⟨seg k (by omega) hk, sel k h3 hk⟩

/-! ### What one block shows (R121, R122, R124) -/

theorem renderBlock_get (c : Params) (b j : Idx) (v : Dec) : (renderBlock c b v)[j.toNat]? = some (renderPair c b v j) := by
  have hj : j = 0 ∨ j = 1 ∨ j = 2 ∨ j = 3 := by revert j; decide
  obtain rfl | rfl | rfl | rfl := hj <;> rfl

theorem length_digitOps (S : Nat) : (digitOps S).length = digitCycles S := by
  simp only [digitOps, digitCycles, List.length_append, List.length_replicate]
  rfl

/-- A HOLD writes neither val nor the picture. -/
theorem edgeNext_hold_frame {s : State} (h : s.rstI = false) (hp : s.ph = 4) :
    (edgeNext s).val = s.val ∧ (edgeNext s).segOn = s.segOn ∧ (edgeNext s).selOn = s.selOn :=
  ⟨edgeNext_val_of_ne h (by simp [hp]) (by simp [hp]), edgeNext_segOn_of_ne h (by simp [hp]) (by simp [hp]),
    edgeNext_selOn_of_ne h (by simp [hp])⟩

section
variable {S : Nat} {s : State} (hcfg : s.cfg.settleCycles = S)
include hcfg

theorem after_hold_ph (hp : s.ph = 4) (hset : s.settle = 0) {k : Nat} (hk : k < S) (h : NoReset k s) : (after k s).ph = 4 := by
  have hholds : Performs S (4, s.blk, s.dig, 0) (List.replicate k .hold) (4, s.blk, s.dig, k) :=
    performs_counting_holds (by omega)
  obtain ⟨-, hend⟩ := hholds s hcfg (sequencing_eq_iff.mpr ⟨hp, rfl, rfl, hset⟩) (by rwa [List.length_replicate])
  rw [List.length_replicate] at hend
  exact (sequencing_eq_iff.mp hend).1

/-- The whole hold of a position, its last edge included, leaves val and the picture. -/
theorem after_hold_frame (hp : s.ph = 4) (hset : s.settle = 0) {k : Nat} (hk : k ≤ S) (h : NoReset k s) :
    (after k s).val = s.val ∧ (after k s).segOn = s.segOn ∧ (after k s).selOn = s.selOn := by
  induction k with
  | zero => exact ⟨rfl, rfl, rfl⟩
  | succ k ih =>
    have hrun := h.mono (Nat.le_succ k)
    obtain ⟨hval, hseg, hsel⟩ := ih (Nat.le_of_succ_le hk) hrun
    obtain ⟨hval', hseg', hsel'⟩ := edgeNext_hold_frame (h k (Nat.lt_succ_self k)) (after_hold_ph hcfg hp hset hk hrun)
    rw [after_succ]
    exact ⟨hval'.trans hval, hseg'.trans hseg, hsel'.trans hsel⟩

end

/-- Cycle of the BLANK of a digit: position `j` of block `b` is next to show, and val is `v` without its `j` lowest digits. -/
structure DigitDue (b : Idx) (v : Dec) (j : Nat) (t : State) : Prop where
  ph : t.ph = 1
  blk : t.blk = b
  dig : t.dig.toNat = j
  settle : t.settle = 0
  val : t.val.toNat = v.toNat / 10 ^ j

section
variable {b : Idx} {v : Dec} {t : State}

/-- What DRIVE leaves in val at that digit. -/
theorem DigitDue.quotient_val {j : Nat} (hd : DigitDue b v j t) : (quotient t.val).toNat = v.toNat / 10 ^ (j + 1) := by
  rw [quotient_toNat, hd.val, Nat.div_div_eq_div_mul, Nat.pow_succ]

/-- DRIVE's digit code of what is left of the sample is the sample's digit (R61). -/
theorem DigitDue.digitOf_val {j : Nat} (hd : DigitDue b v j t) : digitOf t.val = decimalDigit v j := by
  rw [digitOf, hd.val]
  rfl

theorem DigitDue.pos_eq {j : Idx} (hd : DigitDue b v j.toNat t) : pos t.blk t.dig = pos b j := by
  rw [hd.blk, BitVec.eq_of_toNat_eq hd.dig]

end

/-- The first three edges of a digit from the cycle `t` of its BLANK: the segments are dark, the selection moves, and the
digit's pattern is lit (R121, R122). -/
structure DigitLit (t : State) : Prop where
  dark : (after 1 t).segOn = 0
  moved : (after 2 t).segOn = 0 ∧ (after 2 t).selOn = selDecode (pos t.blk t.dig)
  ph : (after 3 t).ph = 4
  settle : (after 3 t).settle = t.settle
  val : (after 3 t).val = quotient t.val
  segOn : (after 3 t).segOn = segTable t.cfg (digitOf t.val)
  selOn : (after 3 t).selOn = selDecode (pos t.blk t.dig)

theorem digitLit_of_blank {t : State} (hp : t.ph = 1) (h : NoReset 3 t) : DigitLit t := by
  have e1 : after 1 t = _ := edgeNext_blank h.head hp
  have hp1 : (after 1 t).ph = 2 := by rw [e1]; rfl
  have e2 : after 2 t = _ := (after_succ 1 t).trans (edgeNext_select (h 1 (by decide)) hp1)
  have hp2 : (after 2 t).ph = 3 := by rw [e2]; rfl
  have e3 : after 3 t = _ := (after_succ 2 t).trans (edgeNext_drive (h 2 (by decide)) hp2)
  rw [e1] at e2
  rw [e2] at e3
  constructor
  · rw [e1]; rfl
  · rw [e2]; exact ⟨rfl, rfl⟩
  all_goals rw [e3]; rfl

section
variable {S : Nat} {b : Idx} {v : Dec} {t : State} (hcfg : t.cfg.settleCycles = S)
  (h : NoReset (digitCycles S) t)
include hcfg h

/-- The rest of a digit's cycles, its last edge left out: the pattern stays lit at its position (R124). -/
theorem digit_held (hp : t.ph = 1) (hset : t.settle = 0) {k : Nat} (hk : k < S) :
    (after (3 + k) t).ph = 4 ∧ (after (3 + k) t).selOn = selDecode (pos t.blk t.dig) ∧
    (after (3 + k) t).segOn = segTable t.cfg (digitOf t.val) := by
  have lit := digitLit_of_blank hp (h.mono (Nat.le_add_right 3 S))
  have hcfg3 : (after 3 t).cfg.settleCycles = S := by rw [after_cfg, hcfg]
  have hset3 := lit.settle.trans hset
  have hrun : NoReset k (after 3 t) := (NoReset.drop (m := 3) h).mono hk.le
  obtain ⟨-, hseg, hsel⟩ := after_hold_frame hcfg3 lit.ph hset3 hk.le hrun
  rw [after_add]
  exact ⟨after_hold_ph hcfg3 lit.ph hset3 hk hrun, hsel.trans lit.selOn, hseg.trans lit.segOn⟩

/-- A digit but the last leads to the next one, with the digit shown taken off val. -/
theorem DigitDue.next {j : Nat} (hd : DigitDue b v j t) (hS : 1 ≤ S) (hj : j < 3) :
    DigitDue b v (j + 1) (after (digitCycles S) t) := by
  have hdig : t.dig.toNat < 3 := hd.dig ▸ hj
  have lit := digitLit_of_blank hd.ph (h.mono (Nat.le_add_right 3 S))
  have hseq : (after (digitCycles S) t).sequencing = (1, t.blk, t.dig + 1, 0) := by
    rw [← length_digitOps] at h ⊢
    exact (performs_digitOps hS (performs_hold_nextDigit hdig) t hcfg
      (sequencing_eq_iff.mpr ⟨hd.ph, rfl, rfl, hd.settle⟩) h).2
  have hval : (after (digitCycles S) t).val = quotient t.val := by
    obtain ⟨hval, -⟩ := after_hold_frame (by rw [after_cfg, hcfg]) lit.ph (lit.settle.trans hd.settle) le_rfl
      (NoReset.drop (m := 3) h)
    rw [digitCycles, after_add, hval, lit.val]
  obtain ⟨hph, hblk, hdig', hset⟩ := sequencing_eq_iff.mp hseq
  exact {
    ph := hph
    blk := hblk.trans hd.blk
    dig := by rw [hdig', idx_succ_toNat hdig, hd.dig]
    settle := hset
    val := by rw [hval, hd.quotient_val] }

end

theorem digitDue_of_fetch {s : State} (h : s.rstI = false) (hp : s.ph = 0) (hset : s.settle = 0) :
    DigitDue s.blk (s.cnt.get s.blk) 0 (edgeNext s) := by
  rw [edgeNext_fetch h hp]
  exact ⟨rfl, rfl, rfl, hset, (Nat.div_one _).symm⟩

theorem digitStart_le {S j : Nat} (hj : j ≤ 3) : 1 + j * digitCycles S + digitCycles S ≤ blockCycles S := by
  have hle : j * digitCycles S ≤ 3 * digitCycles S := Nat.mul_le_mul_right _ hj
  unfold blockCycles
  omega

/-- From a FETCH on, the digits of the sample come due one by one, least significant first. -/
theorem digitDue_in_block {S : Nat} {s : State} (hS : 1 ≤ S) (hcfg : s.cfg.settleCycles = S) (hp : s.ph = 0)
    (hset : s.settle = 0) (h : NoReset (blockCycles S) s) (j : Nat) (hj : j ≤ 3) :
    DigitDue s.blk (s.cnt.get s.blk) j (after (1 + j * digitCycles S) s) := by
  induction j with
  | zero =>
    rw [Nat.zero_mul]
    exact digitDue_of_fetch (h 0 (blockCycles_pos S)) hp hset
  | succ j ih =>
    have hle : j ≤ 3 := Nat.le_of_succ_le hj
    rw [Nat.succ_mul, ← Nat.add_assoc, after_add]
    exact (ih hle).next (by rw [after_cfg, hcfg]) (h.mono (digitStart_le hle)).drop hS hj

/-- Settles O37: the digit's cycles are counted from its BLANK, at which the digit is due. -/
theorem blockShowsTheSampledDigits : Obligations.BlockShowsTheSampledDigits := by
  intro s hS hp _ hset h j v e
  have hj : j.toNat ≤ 3 := Nat.le_of_lt_succ j.isLt
  have due : DigitDue s.blk v j.toNat (after e s) := digitDue_in_block hS rfl hp hset h j.toNat hj
  have hrun : NoReset (digitCycles s.cfg.settleCycles) (after e s) := (h.mono (digitStart_le hj)).drop
  have lit := digitLit_of_blank due.ph (hrun.mono (Nat.le_add_right 3 _))
  refine ⟨?_, ?_, ?_, ?_, fun k hk => ?_⟩
  · rw [after_add]
    exact lit.dark
  · rw [after_add]
    exact lit.moved.1
  · rw [after_add, lit.moved.2, due.pos_eq]
    rfl
  · rw [after_add, lit.val, due.quotient_val]
  · obtain ⟨hph, hsel, hseg⟩ := digit_held (by rw [after_cfg]) hrun due.ph due.settle hk
    rw [Nat.add_assoc, after_add, renderBlock_get, hsel, hseg, due.pos_eq, due.digitOf_val, after_cfg]
    exact ⟨hph, rfl⟩

end Sys2Proof.Machine

namespace Sys2Proof.Machine

/-! ### A ticked edge in the other order (R147) -/

theorem advancePosition_setBank (s : State) (b : Bank) :
    advancePosition (s.setBank b) = (advancePosition s).setBank b := by
  simp only [advancePosition, apply_ite (State.setBank · b)]
  rfl

theorem exec_hold_setBank (s : State) (b : Bank) :
    exec .hold (s.setBank b) = mapOutcome (State.setBank · b) (exec .hold s) := by
  show Host.Outcome.next _ = Host.Outcome.next _
  simp only [apply_ite (State.setBank · b), ← advancePosition_setBank]
  rfl

/-- FETCH and AUX alone of the micro-operations read the bank (R110, R115). HOLD alone of the others branches. -/
theorem exec_setBank {i : Instr} (hi : spaceOf i = .ph) (hfetch : i ≠ .fetch) (haux : i ≠ .aux) (s : State) (b : Bank) :
    exec i (s.setBank b) = mapOutcome (State.setBank · b) (exec i s) := by
  obtain rfl | rfl | rfl | rfl | rfl | rfl | ⟨x, rfl⟩ := spaceOf_eq_ph_cases hi
  · exact exec_hold_setBank s b
  · exact absurd rfl hfetch
  · rfl
  · rfl
  · rfl
  · exact absurd rfl haux
  · rfl

/-- Settles O5: the micro-operation leaves the bank, so the TICK after it advances the bank that the edge's own TICK reads;
outside FETCH and AUX the two commute, since then the micro-operation does not read what the TICK writes. -/
theorem tickedEdgeIsScannerThenTick : Obligations.TickedEdgeIsScannerThenTick := by
  intro s h htick
  obtain ⟨m, hm⟩ := exec_next (decodePh s.ph) s
  have hcnt : m.cnt = s.cnt := scan_keeps_bank hm
  have hbank : bankAfter s = tickBank m.cnt := by rw [bankAfter, htick, if_pos rfl, hcnt]
  refine ⟨m, m.setBank (tickBank m.cnt), hm, rfl, ?_, hcnt, rfl, fun hp => ?_, fun hp => ?_, fun h0 h5 => ?_⟩
  · rw [step_run h hm, hbank]
  · rw [hp] at hm
    cases hm
    rfl
  · rw [hp] at hm
    cases hm
    exact parity_eq s.cnt.c1
  · obtain ⟨hfetch, -, -, -, haux⟩ := phase_of_decodePh s.ph
    refine ⟨s.setBank (tickBank s.cnt), rfl, ?_⟩
    rw [State.setBank_ph, exec_setBank (spaceOf_decodePh s.ph) (h0 ∘ hfetch) (h5 ∘ haux), hm, hcnt]
    rfl

/-! ### The companion timer (R152) -/

theorem timer_wellFormed_iff {x : Timer} : x.wellFormed = true ↔ 1 ≤ x.period ∧ x.tmr < x.period := by
  simp [Timer.wellFormed]

/-- A timer in its range that its own output re-arms counts modulo TICK_PERIOD: its register is wide enough that the
count never wraps before the re-arm. -/
theorem timerNext_timerFires {x : Timer} (hx : x.wellFormed = true) (rst : Bool) :
    timerNext x rst (timerFires x rst) = { x with tmr := if rst then 0 else (x.tmr + 1) % x.period } := by
  obtain ⟨hpos, hlt⟩ := timer_wellFormed_iff.mp hx
  cases rst with
  | true => rfl
  | false =>
    by_cases hlast : x.tmr = x.period - 1
    · simp [timerNext, timerFires, hlast, Nat.sub_add_cancel hpos]
    · have hnext : x.tmr + 1 < x.period := by omega
      have hwidth : x.tmr + 1 < 2 ^ Config.counterWidth x.period := lt_of_lt_of_le hnext (le_two_pow_counterWidth _)
      simp [timerNext, timerFires, hlast, Nat.mod_eq_of_lt hnext, Nat.mod_eq_of_lt hwidth]

theorem tickI_of_timer {s : State} {x : Timer} (hx : s.plat.timer = some x) : s.tickI = timerFires x s.rstI := by
  rw [State.tickI, hx]

theorem rearmO_of_timer {s : State} {x : Timer} (hx : s.plat.timer = some x) : s.rearmO = timerFires x s.rstI := by
  rw [State.rearmO, tickI_of_timer hx, timerFires, ← Bool.and_assoc, Bool.and_self]

/-- An edge of a state with a timer in its range. -/
theorem edgeNext_timer {s : State} {x : Timer} (hx : s.plat.timer = some x) (hwf : x.wellFormed = true) :
    (edgeNext s).plat.timer = some { x with tmr := if s.rstI then 0 else (x.tmr + 1) % x.period } := by
  rw [edgeNext_plat, State.nextPlat, hx, Option.map_some, rearmO_of_timer hx, timerNext_timerFires hwf]

theorem edgeNext_timer_none {s : State} (hx : s.plat.timer = none) : (edgeNext s).plat.timer = none := by
  rw [edgeNext_plat, State.nextPlat, hx, Option.map_none]

theorem TimerLegal.edge {s : State} (hs : TimerLegal s) : TimerLegal (edgeNext s) := by
  intro y hy
  cases hx : s.plat.timer with
  | none => simp [edgeNext_timer_none hx] at hy
  | some x =>
    have hwf := hs x hx
    obtain ⟨hpos, -⟩ := timer_wellFormed_iff.mp hwf
    rw [edgeNext_timer hx hwf] at hy
    cases hy
    refine timer_wellFormed_iff.mpr ⟨hpos, ?_⟩
    show (if s.rstI then 0 else _) < x.period
    split
    · exact hpos
    · exact Nat.mod_lt _ hpos

/-- Settles O43: an edge writes 0 or the count modulo the period. -/
theorem companionTimerStaysInRange : Obligations.CompanionTimerStaysInRange := by
  intro s t hs h
  rw [step_eq_next h]
  exact ⟨hs.edge, fun x hx => ⟨_, edgeNext_timer hx (hs x hx), rfl, fun hr => if_pos hr⟩⟩

/-- A timer that starts cleared holds the number of the cycle modulo its period. -/
theorem after_timer {period : Nat} {s : State} (hpos : 1 ≤ period)
    (hs : s.plat.timer = some { period := period, tmr := 0 }) (k : Nat) (h : NoReset k s) :
    (after k s).plat.timer = some { period := period, tmr := k % period } := by
  induction k with
  | zero => rw [Nat.zero_mod]; exact hs
  | succ k ih =>
    have hwf : ({ period := period, tmr := k % period } : Timer).wellFormed = true :=
      timer_wellFormed_iff.mpr ⟨hpos, Nat.mod_lt k hpos⟩
    have hrun : (after k s).rstI = false := h k (Nat.lt_succ_self k)
    rw [after_succ, edgeNext_timer (ih (h.mono (Nat.le_succ k))) hwf, hrun, ← Nat.mod_add_mod k period 1]
    rfl

/-- Settles O42: the timer's output compares the cycle's number modulo the period with the last count. -/
theorem companionTimerTicksEveryPeriod : Obligations.CompanionTimerTicksEveryPeriod := by
  intro n period s hpos hs h k hk
  rw [tickI_of_timer (after_timer hpos hs k (h.mono (Nat.le_of_lt hk))), h k hk]
  rfl

end Sys2Proof.Machine

namespace Sys2Proof.Machine

/-! ### RESET (R160) -/

/-- Settles O7: RESET's result is the reset state in the same build and on the same platform's side. The edge is that of O4's
rule, and only a running cycle marks a tick (R17). -/
theorem resetClearsEveryRegister : Obligations.ResetClearsEveryRegister := by
  refine ⟨fun x s => rfl, fun s h => ⟨?_, ?_⟩⟩
  · rw [State.rearmO, h]
    rfl
  · obtain ⟨atReset, -⟩ := edgeRunsTheDecodedOperations
    exact atReset s h

/-! ### The selection along a run (R112, R181) -/

/-- What an edge with rst_i = 0 makes of the selection. -/
theorem edgeNext_selOn {s : State} (h : s.rstI = false) :
    (edgeNext s).selOn = if s.ph = 2 then selDecode (pos s.blk s.dig) else s.selOn := by
  split
  next hp =>
    rw [edgeNext_select h hp]
    rfl
  next hp => exact edgeNext_selOn_of_ne h hp

/-- Two states with one sequencing state have equal selections after a SELECT, and keep equal selections at every other
edge. -/
theorem edgeNext_selOn_congr {s u : State} (hs : s.rstI = false) (hu : u.rstI = false) (hq : s.sequencing = u.sequencing)
    (h : s.ph = 2 ∨ s.selOn = u.selOn) : (edgeNext s).selOn = (edgeNext u).selOn := by
  obtain ⟨hph, hblk, hdig, -⟩ := sequencing_eq_iff.mp hq
  rw [edgeNext_selOn hs, edgeNext_selOn hu, ← hph, ← hblk, ← hdig]
  split
  next => rfl
  next hp => exact h.resolve_left hp

/-- Settles O45: the SELECT of cycle 2 makes the selections equal whatever was selected before, and the sequencing, which is the
same in both runs, moves them alike from then on. -/
theorem selectionIsAFunctionOfTheCycle : Obligations.SelectionIsAFunctionOfTheCycle := by
  intro n s u hs hu hS hrs hru hn
  have alike : ∀ k, k ≤ n → (after k s).sequencing = (after k u).sequencing := fun k hk =>
    sequencingIgnoresTheTicks k s u (hs.trans hu.symm) hS (hrs.mono hk) (hru.mono hk)
  induction n, hn using Nat.le_induction with
  | base =>
    have hseq : (after 2 s).sequencing = (2, 0, 0, 0) := by
      rw [after_sequencing (hrs.mono (by decide)), hs]
      rfl
    exact edgeNext_selOn_congr (hrs 2 (by decide)) (hru 2 (by decide)) (alike 2 (by decide))
      (.inl (position_of_sequencing hseq).1)
  | succ n hn ih =>
    have hle := Nat.le_succ n
    rw [after_succ, after_succ]
    exact edgeNext_selOn_congr (hrs n (Nat.lt_succ_self n)) (hru n (Nat.lt_succ_self n)) (alike n hle)
      (.inr (ih (hrs.mono hle) (hru.mono hle) fun k hk => alike k (hk.trans hle)))

/-! ### The first pass (R161) -/

/-- The selection that was left over stays through the FETCH and the BLANK of a block. -/
theorem selOn_until_select {s : State} (hp : s.ph = 0) (h : NoReset 2 s) {k : Nat} (hk : k ≤ 2) :
    (after k s).selOn = s.selOn := by
  have hp1 : (edgeNext s).ph = 1 := by
    rw [edgeNext_fetch h.head hp]
    rfl
  have hfetch : (edgeNext s).selOn = s.selOn := edgeNext_selOn_of_ne h.head (by simp [hp])
  have hblank : (edgeNext (edgeNext s)).selOn = (edgeNext s).selOn := edgeNext_selOn_of_ne h.tail.head (by simp [hp1])
  match k, hk with
  | 0, _ => rfl
  | 1, _ => exact hfetch
  | 2, _ => exact hblank.trans hfetch

/-- Three blocks after the start of a pass AUX is due. -/
theorem aux_due_of_passStart {s : State} (hS : 1 ≤ s.cfg.settleCycles) (hp : s.ph = 0) (hb : s.blk = 0) (hset : s.settle = 0)
    (h : NoReset (3 * blockCycles s.cfg.settleCycles) s) : (after (3 * blockCycles s.cfg.settleCycles) s).ph = 5 := by
  have hl : SeqLegal s := seqLegal_of_fetch hS hp (by simp [hb]) hset
  have hstart : passIndex s = 0 := by simp [passIndex, hp, hb]
  obtain ⟨hlegal, hplace⟩ := passIndex_after hl h
  have hlast : 3 * blockCycles s.cfg.settleCycles < passCycles s.cfg.settleCycles := Nat.lt_succ_self _
  rw [hstart, Nat.zero_add, Nat.mod_eq_of_lt hlast] at hplace
  exact (passIndex_lt hlegal).2.mp (by rw [hplace, after_cfg])

/-- Settles O41: the first digit of the pass is digit 0 of the zero that the FETCH of cycle 0 samples, whatever its edge's tick
does; AUX is due after three blocks. -/
theorem firstPassAfterReset : Obligations.FirstPassAfterReset := by
  intro s hs hS h
  have hp : s.ph = 0 := by rw [hs]; rfl
  have hb : s.blk = 0 := by rw [hs]; rfl
  have hset : s.settle = 0 := by rw [hs]; rfl
  have hsample : s.cnt.get s.blk = 0 := by rw [hs]; rfl
  have hunlit : s.selOn = 0 := by rw [hs]; rfl
  have hrun : NoReset 4 s := h.mono (by omega)
  have due : DigitDue s.blk (s.cnt.get s.blk) (0 : Idx).toNat (edgeNext s) := digitDue_of_fetch hrun.head hp hset
  have lit : DigitLit (edgeNext s) := digitLit_of_blank due.ph hrun.tail
  have hpos : selDecode (pos (edgeNext s).blk (edgeNext s).dig) = 0x001#12 := by rw [due.pos_eq, hb]; rfl
  have hpattern : segTable (edgeNext s).cfg (digitOf (edgeNext s).val) = 0x3F#7 := by rw [due.digitOf_val, hsample]; rfl
  have hauxCycle : 39 + 12 * s.cfg.settleCycles = 3 * blockCycles s.cfg.settleCycles := by
    unfold blockCycles digitCycles
    omega
  refine ⟨fun k hk => (selOn_until_select hp (hrun.mono (by decide)) hk).trans hunlit, lit.moved.2.trans hpos, lit.moved.1,
    lit.selOn.trans hpos, lit.segOn.trans hpattern, ?_⟩
  rw [hauxCycle] at h ⊢
  exact aux_due_of_passStart hS hp hb hset h

end Sys2Proof.Machine
